-- ==== Sys2Proof/Word.lean ====
section
/-! DEFINITION. The number types of the block and their ranges (00_scope.md R9): every width is a parameter of R6, so
a `uN` value is a natural number below `2^N` and an `sN` value is a whole number in the two's-complement range of
`N` bits. The arithmetic over them stands in Machine/Operands.lean. -/

namespace Sys2Proof

/-- A `uT_W` value: a reading of the platform's clock, or a difference of two (R9, R168). -/
abbrev Timestamp := Nat

/-- An `sPOS_W` value (R22). -/
abbrev Position := Int

/-- An `sIV_W` value: a signed edge interval, the content of one ring slot (R28). -/
abbrev Interval := Int

/-- `n` is a `uN` value (R9). -/
abbrev UFits (width n : Nat) : Prop := n < 2 ^ width

/-- `z` is an `sN` value (R9): `-2^(N-1) <= z <= 2^(N-1) - 1`. -/
abbrev SFits (width : Nat) (z : Int) : Prop := -(2 : Int) ^ (width - 1) ≤ z ∧ z < (2 : Int) ^ (width - 1)

end Sys2Proof
end

