-- ==== Sys2Proof/Config.lean ====
section
/-! DEFINITION. What an implementation fixes: the parameters of the block (00_scope.md R6) with their constraints (R7),
and the one open parameter, the format of the rate output (R137, D21), as free values. -/

namespace Sys2Proof

/-- The free parameters of the block (R6). The derived ones (`N`, `IV_W`, `CUR_W`, `CNT_W`) are functions of these. -/
structure Params where
  /-- `POS_W`, the width of `pos` in bits. -/
  posW : Nat
  /-- `T_W`, the width of a timestamp in bits. -/
  tW : Nat
  /-- `C`, the capacity of the ring buffer in slots. -/
  c : Nat
  /-- `WIN`, the window budget in time units. -/
  win : Nat
  /-- `Q`, the quantisation step in time units. -/
  q : Nat
  deriving DecidableEq, Repr

/-- The values this hardware takes when nothing else is said (R6, column "value"). -/
def Params.reference : Params := { posW := 32, tW := 32, c := 5000, win := 10000, q := 50 }

/-- `N = WIN / Q`, the window step budget (R6). -/
def Params.n (p : Params) : Nat := p.win / p.q

/-- `IV_W = T_W + 1`, the width of a ring slot (R6, D4). -/
def Params.ivW (p : Params) : Nat := p.tW + 1

/-- The search behind `leastWidth`: the first width from `w` on whose range holds `m` values. -/
def leastWidthFrom (m : Nat) : Nat → Nat → Nat
  | 0, w => w
  | fuel + 1, w => if m ≤ 2 ^ w then w else leastWidthFrom m fuel (w + 1)

/-- The least `w` with `2^w >= m` (R6, rows `CUR_W` and `CNT_W`). -/
def leastWidth (m : Nat) : Nat := leastWidthFrom m m 0

/-- `CUR_W`, the width of `cursor`: the least `w` with `2^w >= C` (R6). -/
def Params.curW (p : Params) : Nat := leastWidth p.c

/-- `CNT_W`, the width of `unconsumed`: the least `w` with `2^w >= C + 1` (R6). -/
def Params.cntW (p : Params) : Nat := leastWidth (p.c + 1)

/-- `SENTINEL`, the value every ring slot holds after reset (R6, D9). -/
def sentinel : Interval := 0

/-- The constraints of R7. A parameter set that breaks one is refused (U11). `IV_W = T_W + 1` holds by definition. -/
def Params.ok (p : Params) : Bool :=
  decide (1 ≤ p.c) && decide (1 ≤ p.q) && decide (p.q ≤ p.win) && decide (p.win % p.q = 0) &&
    decide (3 ≤ p.posW) && decide (1 ≤ p.tW) && decide (p.win < 2 ^ p.tW)

/-- DESIGN CHOICE (log entry 13; safe): the width of the rate output is a free value, since R137 leaves the format
open. It has no body: nothing can be proved of it. -/
opaque Config.rateWidth : Nat

/-- DESIGN CHOICE (log entry 13; safe): the bits that `RateEncode` gives a rational, a free value without a body, a
function of `exact` alone as R137 requires. -/
opaque Config.rateBits : Rat → BitVec Config.rateWidth

/-- A bit pattern of the open rate format, sorted by the sign the format gives it (R137: `RateEncode` keeps the sign,
and `RateEncode(0)` is the format's zero). The bits themselves are free. -/
inductive RateWord where
  /-- A pattern the format reads as negative. -/
  | neg (bits : BitVec Config.rateWidth)
  /-- The format's zero. -/
  | zero
  /-- A pattern the format reads as positive. -/
  | pos (bits : BitVec Config.rateWidth)
  deriving DecidableEq, Repr

end Sys2Proof
end

