-- ==== Sys2Proof/Syntax.lean ====
section
/-! DEFINITION. The operations of the block: one constructor per row of spec/opcode_table.json, and the ports on
which an operation is presented (30_encoding.md R60 to R66, R71, R72). -/

namespace Sys2Proof

/-- The operations. The sixteen decode codes (format DC, R84 to R99) are formed inside the block; those whose class
reads the clock value of the pass carry it (R83). The commands (format CMD, R66) carry the operand ports they read. -/
inductive Instr where
  /-- DC0, no movement from (0,0) (R84). -/
  | dc0
  /-- DC1, channel 1 falls while channel 2 is 0: +1 (R85). -/
  | dc1 (now : Timestamp)
  /-- DC2, channel 2 falls while channel 1 is 0: -1 (R86). -/
  | dc2 (now : Timestamp)
  /-- DC3, double step from (1,1) to (0,0): +2 (R87). -/
  | dc3
  /-- DC4, channel 1 rises while channel 2 is 0: -1 (R88). -/
  | dc4 (now : Timestamp)
  /-- DC5, no movement from (1,0) (R89). -/
  | dc5
  /-- DC6, double step from (0,1) to (1,0): -2 (R90). -/
  | dc6
  /-- DC7, channel 2 falls while channel 1 is 1: +1 (R91). -/
  | dc7 (now : Timestamp)
  /-- DC8, channel 2 rises while channel 1 is 0: +1 (R92). -/
  | dc8 (now : Timestamp)
  /-- DC9, double step from (1,0) to (0,1): -2 (R93). -/
  | dc9
  /-- DC10, no movement from (0,1) (R94). -/
  | dc10
  /-- DC11, channel 1 falls while channel 2 is 1: -1 (R95). -/
  | dc11 (now : Timestamp)
  /-- DC12, double step from (0,0) to (1,1): +2 (R96). -/
  | dc12
  /-- DC13, channel 2 rises while channel 1 is 1: -1 (R97). -/
  | dc13 (now : Timestamp)
  /-- DC14, channel 1 rises while channel 2 is 1: +1 (R98). -/
  | dc14 (now : Timestamp)
  /-- DC15, no movement from (1,1) (R99). -/
  | dc15
  /-- NOP (R151). -/
  | nop
  /-- INIT, the reset (R150): the two samples and the outcome of the two bindings. -/
  | init (a b : Bool) (bound : BitVec 2)
  /-- UPDATE, one decode pass (R80). -/
  | update (a b : Bool) (now : Timestamp)
  /-- READ (R110); its operands are read only when `poll = 1`. -/
  | read (a b : Bool) (now : Timestamp)
  /-- WRITE (R111). -/
  | write (wdata : Position)
  /-- RATE (R130). -/
  | rate (now : Timestamp)
  /-- The reserved opcode 0b110 (R68). -/
  | reserved6
  /-- The reserved opcode 0b111 (R68). -/
  | reserved7
  deriving DecidableEq, Repr

/-- EDGE, the spelling of UPDATE for one issued by the edge agent (R72); the block cannot tell it from POLL. -/
abbrev Instr.edge (a b : Bool) (now : Timestamp) : Instr := .update a b now

/-- POLL, the spelling of UPDATE for a forced poll issued by the host (R72). -/
abbrev Instr.forcedPoll (a b : Bool) (now : Timestamp) : Instr := .update a b now

/-- The input ports of the block (R65), all of them, whether the operation reads them or not. -/
structure Ports where
  /-- The command opcode. -/
  op : BitVec 3
  /-- Channel 1 sample, true for high. -/
  a : Bool
  /-- Channel 2 sample, true for high. -/
  b : Bool
  /-- The reading of the wrapping clock. -/
  now : Timestamp
  /-- The value for WRITE. -/
  wdata : Position
  /-- Bit 0: edge notification bound for channel 1; bit 1: for channel 2. -/
  bound : BitVec 2
  deriving DecidableEq, Repr

/-- Whether the operation is one of the sixteen decode codes, which no agent can present (R60). -/
def Instr.isCode : Instr → Bool
  | .dc0 => true
  | .dc1 _ => true
  | .dc2 _ => true
  | .dc3 => true
  | .dc4 _ => true
  | .dc5 => true
  | .dc6 => true
  | .dc7 _ => true
  | .dc8 _ => true
  | .dc9 => true
  | .dc10 => true
  | .dc11 _ => true
  | .dc12 => true
  | .dc13 _ => true
  | .dc14 _ => true
  | .dc15 => true
  | .nop => false
  | .init _ _ _ => false
  | .update _ _ _ => false
  | .read _ _ _ => false
  | .write _ => false
  | .rate _ => false
  | .reserved6 => false
  | .reserved7 => false

/-- Whether the operation is one of the two reserved opcodes (R68). -/
def Instr.isReserved (i : Instr) : Bool := i = .reserved6 || i = .reserved7

/-- Whether the operation is INIT. -/
def Instr.isInit : Instr → Bool
  | .dc0 => false
  | .dc1 _ => false
  | .dc2 _ => false
  | .dc3 => false
  | .dc4 _ => false
  | .dc5 => false
  | .dc6 => false
  | .dc7 _ => false
  | .dc8 _ => false
  | .dc9 => false
  | .dc10 => false
  | .dc11 _ => false
  | .dc12 => false
  | .dc13 _ => false
  | .dc14 _ => false
  | .dc15 => false
  | .nop => false
  | .init _ _ _ => true
  | .update _ _ _ => false
  | .read _ _ _ => false
  | .write _ => false
  | .rate _ => false
  | .reserved6 => false
  | .reserved7 => false

/-- A line of the assembler syntax of R71 and R72, with its operands in the order shown there. READ may be written
alone, and `wdata` may be written as a whole number or as a bit pattern. -/
inductive AsmLine where
  | nop
  | init (a b : Bool) (bound : BitVec 2)
  | update (a b : Bool) (now : Timestamp)
  /-- The spelling EDGE (R72). -/
  | edge (a b : Bool) (now : Timestamp)
  /-- The spelling POLL (R72). -/
  | poll (a b : Bool) (now : Timestamp)
  | read (a b : Bool) (now : Timestamp)
  /-- READ without operands (R71). -/
  | readAlone
  | write (wdata : Int)
  | rate (now : Timestamp)
  deriving DecidableEq, Repr

end Sys2Proof
end

