-- ==== Sys2Proof/WellFormed.lean ====
section
/-! DEFINITION. When the operand values of an operation fit the ports that carry them (30_encoding.md R65): a
timestamp is a `uT_W` value and `wdata` an `sPOS_W` value. Samples, `bound` and opcodes fit by their types. -/

namespace Sys2Proof

/-- The operand values of the operation fit the widths of a parameter set. -/
def Instr.wf (p : Params) : Instr → Bool
  | .dc0 => true
  | .dc1 now => decide (UFits p.tW now)
  | .dc2 now => decide (UFits p.tW now)
  | .dc3 => true
  | .dc4 now => decide (UFits p.tW now)
  | .dc5 => true
  | .dc6 => true
  | .dc7 now => decide (UFits p.tW now)
  | .dc8 now => decide (UFits p.tW now)
  | .dc9 => true
  | .dc10 => true
  | .dc11 now => decide (UFits p.tW now)
  | .dc12 => true
  | .dc13 now => decide (UFits p.tW now)
  | .dc14 now => decide (UFits p.tW now)
  | .dc15 => true
  | .nop => true
  | .init _ _ _ => true
  | .update _ _ now => decide (UFits p.tW now)
  | .read _ _ now => decide (UFits p.tW now)
  | .write wdata => decide (SFits p.posW wdata)
  | .rate now => decide (UFits p.tW now)
  | .reserved6 => true
  | .reserved7 => true

/-- The values on the ports fit the widths of R65. -/
def Ports.wf (p : Params) (io : Ports) : Bool := decide (UFits p.tW io.now) && decide (SFits p.posW io.wdata)

end Sys2Proof
end

