-- ==== Sys2Proof/Machine/Operands.lean ====
section
/-! DEFINITION. The operand forms and every integer operation of the block (41_position.md R114): wrapping of positions
(R112), differences of timestamps (R121), the decode code and what it selects (R62, R63, R82, R83), the steps of an
interval (R132), and the reading of a port at its width (R65). -/

namespace Sys2Proof

/-- `wrap_sN(z)`: the one `sN` value congruent to `z` modulo `2^N` (R9). -/
def wrapS (width : Nat) (z : Int) : Int := Int.bmod z (2 ^ width)

/-- The bit pattern of an `sN` value: the value modulo `2^N` (R9). -/
def patternOf (width : Nat) (z : Int) : Nat := (z % ((2 ^ width : Nat) : Int)).toNat

/-- `(x - y) mod 2^N` on unsigned values, the source's wraparound-safe unsigned subtraction (R9, R121). -/
def elapsed (width : Nat) (x y : Timestamp) : Timestamp := (((x : Int) - (y : Int)) % ((2 ^ width : Nat) : Int)).toNat

/-- The two channels. Channel 1 has index 0 and channel 2 index 1 (R27, D25). -/
inductive Channel where
  | ch1
  | ch2
  deriving DecidableEq, Repr

/-- The classes of decode codes (R83). -/
inductive EdgeClass where
  /-- Neither channel differs from the history. -/
  | none
  /-- An edge of channel 1. -/
  | ch1
  /-- An edge of channel 2. -/
  | ch2
  /-- Both channels differ: a double step. -/
  | dbl
  deriving DecidableEq, Repr

/-- The sample pair `a | (b << 1)` as a `u2` (R21). -/
def pairOf (a b : Bool) : BitVec 2 :=
  (BitVec.ofBool a).setWidth 2 ||| ((BitVec.ofBool b).setWidth 2 <<< 1)

/-- `code = hist | (a << 2) | (b << 3)`, a `u4` (R62). -/
def codeOf (hist : BitVec 2) (a b : Bool) : BitVec 4 :=
  hist.setWidth 4 ||| ((BitVec.ofBool a).setWidth 4 <<< 2) ||| ((BitVec.ofBool b).setWidth 4 <<< 3)

/-- `newHistory = code >> 2`, a `u2` (R63). -/
def newHistory (code : BitVec 4) : BitVec 2 := (code >>> 2).setWidth 2

/-- `DELTA[code]`, the delta table of R82. -/
def delta (code : BitVec 4) : Int :=
  match code.toNat with
  | 0 => 0
  | 1 => 1
  | 2 => -1
  | 3 => 2
  | 4 => -1
  | 5 => 0
  | 6 => -2
  | 7 => 1
  | 8 => 1
  | 9 => -2
  | 10 => 0
  | 11 => -1
  | 12 => 2
  | 13 => -1
  | 14 => 1
  | _ => 0

/-- The delta as the 3-bit two's-complement field of R64. -/
def deltaBits (code : BitVec 4) : BitVec 3 := BitVec.ofInt 3 (delta code)

/-- `Class(code)`, the table of R83. -/
def edgeClass (code : BitVec 4) : EdgeClass :=
  match code.toNat with
  | 0 => .none
  | 1 => .ch1
  | 2 => .ch2
  | 3 => .dbl
  | 4 => .ch1
  | 5 => .none
  | 6 => .dbl
  | 7 => .ch2
  | 8 => .ch2
  | 9 => .dbl
  | 10 => .none
  | 11 => .ch1
  | 12 => .dbl
  | 13 => .ch2
  | 14 => .ch1
  | _ => .none

/-- `Steps(iv) = floor(abs(iv) / Q)` (R132). -/
def stepsOf (p : Params) (iv : Interval) : Nat := iv.natAbs / p.q

/-- The value port `now` carries: `T_W` bits (R65). A value that fits is unchanged; DESIGN CHOICE (log entry 16;
safe): of a larger number the port carries the low bits. -/
def portTime (p : Params) (now : Nat) : Timestamp := now % 2 ^ p.tW

/-- The value port `wdata` carries: `POS_W` bits, signed (R65). A value that fits is unchanged (log entry 16). -/
def portPosition (p : Params) (wdata : Int) : Position := wrapS p.posW wdata

end Sys2Proof
end

