-- ==== Sys2Proof/Decode.lean ====
section
/-! DEFINITION. From bits to operations and back (30_encoding.md): the 4-bit decode code (format DC, R61), the command
on its ports (format CMD, R65, R66), and a command as one number, its 3-bit opcode followed by the operand values it
reads (R71). The encoder stands after the decoder. -/

namespace Sys2Proof

/-- Format DC (R69: total, no reserved code): the transition a code selects, with the clock value of its pass. -/
def decodeCode (code : BitVec 4) (now : Timestamp) : Instr :=
  match code.toNat with
  | 0 => .dc0
  | 1 => .dc1 now
  | 2 => .dc2 now
  | 3 => .dc3
  | 4 => .dc4 now
  | 5 => .dc5
  | 6 => .dc6
  | 7 => .dc7 now
  | 8 => .dc8 now
  | 9 => .dc9
  | 10 => .dc10
  | 11 => .dc11 now
  | 12 => .dc12
  | 13 => .dc13 now
  | 14 => .dc14 now
  | _ => .dc15

/-- Format CMD on the ports (R66). A port the operation does not read plays no part (R67). -/
def decodePorts (io : Ports) : Instr :=
  match io.op.toNat with
  | 0 => .nop
  | 1 => .init io.a io.b io.bound
  | 2 => .update io.a io.b io.now
  | 3 => .read io.a io.b io.now
  | 4 => .write io.wdata
  | 5 => .rate io.now
  | 6 => .reserved6
  | _ => .reserved7

/-- Why a number is no encoding of a command. -/
inductive DecodeError where
  /-- A bit is set above the last operand of the operation with this opcode. -/
  | trailingBits (op : Nat)
  deriving DecidableEq, Repr

/-- Bit `i` of a number, bit 0 the least significant (R8). -/
def bitOf (w i : Nat) : Bool := decide (w / 2 ^ i % 2 = 1)

/-- A bit as a number (R62: 1 for the source's `true`). -/
def numOf (x : Bool) : Nat := if x then 1 else 0

/-- How many bits the operand values after the opcode take: the widths of the ports the operation reads (R65, R66). -/
def operandBits (p : Params) (op : Nat) : Nat :=
  match op with
  | 1 => 4
  | 2 => 2 + p.tW
  | 3 => 2 + p.tW
  | 4 => p.posW
  | 5 => p.tW
  | _ => 0

/-- The command with an opcode and the number of its operand values, in the order of R71, each least significant bit
first. DESIGN CHOICE (log entry 11; safe): the operands' places above the opcode. -/
def operationOf (p : Params) (op operands : Nat) : Instr :=
  match op with
  | 0 => .nop
  | 1 => .init (bitOf operands 0) (bitOf operands 1) (BitVec.ofNat 2 (operands / 4))
  | 2 => .update (bitOf operands 0) (bitOf operands 1) (operands / 4)
  | 3 => .read (bitOf operands 0) (bitOf operands 1) (operands / 4)
  | 4 => .write (wrapS p.posW operands)
  | 5 => .rate operands
  | 6 => .reserved6
  | _ => .reserved7

/-- The operation of a command's number: the opcode in bits 2..0, then the operand values (R66, R71). A bit above the
last operand makes it no encoding. -/
def decodeFrame (p : Params) (w : Nat) : Except DecodeError Instr :=
  if w / 8 < 2 ^ operandBits p (w % 8) then .ok (operationOf p (w % 8) (w / 8)) else .error (.trailingBits (w % 8))

/-- The operation an assembler line stands for (R71, R72). READ alone stands for a READ whose three operands are
ignored, written here as zeros; a `wdata` pattern stands for its `sPOS_W` value. -/
def assemble (p : Params) : AsmLine → Instr
  | .nop => .nop
  | .init a b bound => .init a b bound
  | .update a b now => .update a b now
  | .edge a b now => .edge a b now
  | .poll a b now => .forcedPoll a b now
  | .read a b now => .read a b now
  | .readAlone => .read false false 0
  | .write wdata => .write (wrapS p.posW wdata)
  | .rate now => .rate now

/-- An encoded operation: a decode code with the clock value of its pass, which no bit of the code carries (R61), or a
command's number. -/
inductive Encoded where
  | code (code : BitVec 4) (now : Timestamp)
  | frame (w : Nat)
  deriving DecidableEq, Repr

/-- Decoding, total over both formats; a number that is no command is rejected by name. -/
def decode (p : Params) : Encoded → Except DecodeError Instr
  | .code code now => .ok (decodeCode code now)
  | .frame w => decodeFrame p w

/-- The number of a command: the opcode and the operand values above it (R66, R71). -/
def frameOf (op operands : Nat) : Nat := op + 8 * operands

/-- Two samples and a value above them, the operand layout of UPDATE, READ and INIT. -/
def samplesThen (a b : Bool) (above : Nat) : Nat := numOf a + 2 * numOf b + 4 * above

/-- The encoding of an operation (R61, R66, R71). -/
def encode (p : Params) : Instr → Encoded
  | .dc0 => .code 0#4 0
  | .dc1 now => .code 1#4 now
  | .dc2 now => .code 2#4 now
  | .dc3 => .code 3#4 0
  | .dc4 now => .code 4#4 now
  | .dc5 => .code 5#4 0
  | .dc6 => .code 6#4 0
  | .dc7 now => .code 7#4 now
  | .dc8 now => .code 8#4 now
  | .dc9 => .code 9#4 0
  | .dc10 => .code 10#4 0
  | .dc11 now => .code 11#4 now
  | .dc12 => .code 12#4 0
  | .dc13 now => .code 13#4 now
  | .dc14 now => .code 14#4 now
  | .dc15 => .code 15#4 0
  | .nop => .frame (frameOf 0 0)
  | .init a b bound => .frame (frameOf 1 (samplesThen a b bound.toNat))
  | .update a b now => .frame (frameOf 2 (samplesThen a b now))
  | .read a b now => .frame (frameOf 3 (samplesThen a b now))
  | .write wdata => .frame (frameOf 4 (patternOf p.posW wdata))
  | .rate now => .frame (frameOf 5 now)
  | .reserved6 => .frame (frameOf 6 0)
  | .reserved7 => .frame (frameOf 7 0)

/-- The bits of an encoded operation stay within its length: a code is four bits by its type, and a command's number
has no bit above its last operand. -/
def Encoded.fits (p : Params) : Encoded → Bool
  | .code _ _ => true
  | .frame w => decide (w < 2 ^ (3 + operandBits p (w % 8)))

/-- The ports of an idle step: nothing is presented, opcode NOP (R151). -/
def Ports.idle : Ports := { op := 0#3, a := false, b := false, now := 0, wdata := 0, bound := 0#2 }

/-- The ports on which a command is presented; the ports it does not read carry zeros. A decode code has no opcode
(R60): it is presented by the UPDATE whose samples form it, bit 2 and bit 3 of the code (R61). -/
def portsOf : Instr → Ports
  | .dc0 => { Ports.idle with op := 2#3, a := false, b := false }
  | .dc1 now => { Ports.idle with op := 2#3, a := false, b := false, now := now }
  | .dc2 now => { Ports.idle with op := 2#3, a := false, b := false, now := now }
  | .dc3 => { Ports.idle with op := 2#3, a := false, b := false }
  | .dc4 now => { Ports.idle with op := 2#3, a := true, b := false, now := now }
  | .dc5 => { Ports.idle with op := 2#3, a := true, b := false }
  | .dc6 => { Ports.idle with op := 2#3, a := true, b := false }
  | .dc7 now => { Ports.idle with op := 2#3, a := true, b := false, now := now }
  | .dc8 now => { Ports.idle with op := 2#3, a := false, b := true, now := now }
  | .dc9 => { Ports.idle with op := 2#3, a := false, b := true }
  | .dc10 => { Ports.idle with op := 2#3, a := false, b := true }
  | .dc11 now => { Ports.idle with op := 2#3, a := false, b := true, now := now }
  | .dc12 => { Ports.idle with op := 2#3, a := true, b := true }
  | .dc13 now => { Ports.idle with op := 2#3, a := true, b := true, now := now }
  | .dc14 now => { Ports.idle with op := 2#3, a := true, b := true, now := now }
  | .dc15 => { Ports.idle with op := 2#3, a := true, b := true }
  | .nop => Ports.idle
  | .init a b bound => { Ports.idle with op := 1#3, a := a, b := b, bound := bound }
  | .update a b now => { Ports.idle with op := 2#3, a := a, b := b, now := now }
  | .read a b now => { Ports.idle with op := 3#3, a := a, b := b, now := now }
  | .write wdata => { Ports.idle with op := 4#3, wdata := wdata }
  | .rate now => { Ports.idle with op := 5#3, now := now }
  | .reserved6 => { Ports.idle with op := 6#3 }
  | .reserved7 => { Ports.idle with op := 7#3 }

/-- Which format a table row's word is of. Both formats number their bits from 0 and share the values 0 to 7, so the
number of bits tells them apart: 4 bits is a decode code, 3 bits a command. Where the length is given in whole bytes
(8 bits) both formats have it: DESIGN CHOICE (log entry 10; safe): a value of 0 to 7 is then read as the command of
that opcode, and a value that needs a fourth bit as a decode code. -/
def isCodeWord (nbits w : Nat) : Bool := nbits = 4 || (nbits ≤ 8 && 8 ≤ w && nbits ≠ 3)

/-- The operation the decoder reads from a word numbered as spec/opcode_table.json numbers it, the operand values
above it zero, at the reference parameters. -/
def decodeTableWord (nbits w : Nat) : Option Instr :=
  if isCodeWord nbits w then
    if w < 16 then some (decodeCode (BitVec.ofNat 4 w) 0) else none
  else
    match decodeFrame Params.reference w with
    | .ok i => some i
    | .error _ => none

end Sys2Proof
end

