-- ==== Sys2Proof/Machine/Flags.lean ====
section
/-! DEFINITION. The flags of the block. There is one, the poll-on-read mode bit, and INIT alone writes it
(10_state.md R23); there are no condition codes, no carry, no overflow and no error flag. -/

namespace Sys2Proof

/-- The poll bit INIT loads: 0 when both bits of `bound` are 1, else 1 (R23, R150). -/
def pollOfBound (bound : BitVec 2) : Bool := bound != 3#2

end Sys2Proof
end

