-- ==== Sys2Proof/Machine/State.lean ====
section
/-! DEFINITION. The state of the block (10_state.md R20), the ring memory, what the two agents have ready, the reasons
an operation can stop, the state before the first INIT and the state after reset. -/

namespace Sys2Proof.Machine

/-- The edge-interval ring (R28, R40) in canonical form: the slots that differ from `SENTINEL`, by rising index. A slot
that is not listed holds `SENTINEL`, the value every slot has after reset (R28, D9). -/
abbrev Memory := List (Nat × Interval)

/-- The canonical form: indices strictly rising, no slot listed with the value an unlisted slot reads as. -/
def Memory.wf : Memory → Bool
  | [] => true
  | (i, v) :: rest => decide (v ≠ sentinel) && rest.all (fun e => decide (i < e.1)) && Memory.wf rest

/-- What port `rate` carries after RATE: the exact rational of R135 and its rendering by `RateEncode` (R137). -/
structure RateResult where
  exact : Rat
  word : RateWord
  deriving DecidableEq, Repr

/-- One edge notification as the edge agent presents it: both samples and the clock value of that moment (R162). -/
structure EdgeNotice where
  a : Bool
  b : Bool
  now : Timestamp
  deriving DecidableEq, Repr

/-- What the two agents have ready at one step (R164): an edge notification, a host operation, both, or nothing. -/
structure Offer where
  edge : Option EdgeNotice
  host : Option Ports
  deriving DecidableEq, Repr

/-- The state: the parameters, the eight elements of R20 (`lastEdgeTime` is two registers), and the model's own fields
`built`, `rdata`, `rate` and `env`, which are no state element of the spec. -/
structure State where
  /-- The parameters the block was made with (R6), fixed for its life (R32). -/
  params : Params
  /-- Whether an INIT has been performed; before it no element holds a value (R33). -/
  built : Bool
  /-- The phase history register (R21): bit 0 channel 1, bit 1 channel 2. -/
  hist : BitVec 2
  /-- The position register (R22). -/
  pos : Position
  /-- The poll-on-read mode bit (R23). -/
  poll : Bool
  /-- The write cursor of the ring (R24). -/
  cursor : Nat
  /-- The unconsumed-ticks counter (R25). -/
  unconsumed : Nat
  /-- The timestamp of the most recent push (R26). -/
  timeOfLastTick : Timestamp
  /-- The timestamp of the most recent push of channel 1 (R27). -/
  lastEdgeTime0 : Timestamp
  /-- The timestamp of the most recent push of channel 2 (R27). -/
  lastEdgeTime1 : Timestamp
  /-- The edge-interval ring buffer (R28). -/
  ring : Memory
  /-- Port `rdata` after the operation just performed: a value after READ, none after any other (R67). -/
  rdata : Option Position
  /-- Port `rate` after the operation just performed: a value after RATE, none after any other (R67). -/
  rate : Option RateResult
  /-- What the agents have ready, this step first (R162 to R164, R167). -/
  env : List Offer
  deriving DecidableEq, Repr

/-- The one guard a step can stop on. The spec gives the block no fault (60_exceptions.md R160). -/
inductive Fault where
  /-- Raised by a ring access outside slots 0 to `C - 1`, which R41 rules out ("the rules of this spec never produce
  another index"). Safe: no state that meets the invariant reaches it (log entry 15). -/
  | slotOutOfRange (index : Nat)
  deriving DecidableEq, Repr

/-- What the spec has a model refuse. -/
inductive Refusal where
  /-- Raised by `exec` for an instruction that has no meaning yet; no instruction is left so. Safe. -/
  | notModelled (mnemonic : String)
  /-- Raised by every operation but INIT before the first INIT (R33, R181, U1). Safe: nothing can be proved of such a
  run. -/
  | beforeInit
  /-- Raised by every operation when the parameter set breaks R7 (U11). Safe. -/
  | badParameters
  /-- Raised by the two reserved command opcodes (R68, U2). Safe. -/
  | reservedOpcode (op : BitVec 3)
  deriving DecidableEq, Repr

/-- The block before the first INIT (R33, R181): `built` is false and every operation but INIT is refused. DESIGN
CHOICE (log entry 4; safe): the zeros in the elements stand for "no value"; no operation reads them. -/
def State.powerOn : State :=
  { params := Params.reference, built := false, hist := 0#2, pos := 0, poll := false, cursor := 0, unconsumed := 0,
    timeOfLastTick := 0, lastEdgeTime0 := 0, lastEdgeTime1 := 0, ring := [], rdata := none, rate := none, env := [] }

/-- The state after reset (R180, R34): what `INIT 0, 0, 0b11` leaves, the agents with nothing ready. DESIGN CHOICE (log
entry 5; unsafe): the operands `a = 0`, `b = 0`, `bound = 0b11` of that INIT, which the environment chooses. -/
def State.reset : State :=
  { params := Params.reference, built := true, hist := 0#2, pos := 0, poll := false, cursor := 0, unconsumed := 0,
    timeOfLastTick := 0, lastEdgeTime0 := 0, lastEdgeTime1 := 0, ring := [], rdata := none, rate := none, env := [] }

end Sys2Proof.Machine
end

