-- ==== Sys2Proof/Machine/Ops.lean ====
section
/-! DEFINITION. The named operations over the state: the ring memory (20_memory.md R41, R42), the registers, the push
procedure (42_ring_buffer.md R120), the body of a decode pass (40_decoder.md R80), the reset (44_control_ops.md R150),
what every operation does around its own effect, and the presentation of operations by the two agents
(60_exceptions.md R164). The block raises no exception and returns from none (R160, R165, R166), so there is no
exception entry here. -/

namespace Sys2Proof.Machine

/-! The ring memory. -/

/-- The value of slot `i`; an unlisted slot holds `SENTINEL` (R28). -/
def Memory.get : Memory → Nat → Interval
  | [], _ => sentinel
  | (j, u) :: rest, i => if i = j then u else Memory.get rest i

/-- Slot `i` replaced by `v`, no other slot changed (R41), in canonical form. -/
def Memory.put : Memory → Nat → Interval → Memory
  | [], i, v => if v = sentinel then [] else [(i, v)]
  | (j, u) :: rest, i, v =>
    if i < j then (if v = sentinel then (j, u) :: rest else (i, v) :: (j, u) :: rest)
    else if i = j then (if v = sentinel then rest else (i, v) :: rest)
    else (j, u) :: Memory.put rest i v

/-- `MemRead(i, 1)` (R11, R41): requires `0 <= i < C`. -/
def memRead (s : State) (i : Nat) : Except Fault Interval :=
  if i < s.params.c then .ok (Memory.get s.ring i) else .error (.slotOutOfRange i)

/-- `MemWrite(i, 1, v)` (R11, R41): requires `0 <= i < C`. -/
def memWrite (s : State) (i : Nat) (v : Interval) : Except Fault State :=
  if i < s.params.c then .ok { s with ring := Memory.put s.ring i v } else .error (.slotOutOfRange i)

/-- The slot of the entry at walk index `k`: `(cursor + C - 1 - k) mod C` (R42, R133). -/
def loadIndex (s : State) (k : Nat) : Nat := (s.cursor + s.params.c - 1 - k) % s.params.c

/-! The registers. -/

/-- `lastEdgeTime[ch]` (R27). -/
def State.lastEdgeTime (s : State) : Channel → Timestamp
  | .ch1 => s.lastEdgeTime0
  | .ch2 => s.lastEdgeTime1

/-- `lastEdgeTime[ch] <- t` (R27): the other channel's register is not touched. -/
def State.setLastEdgeTime (s : State) (ch : Channel) (t : Timestamp) : State :=
  match ch with
  | .ch1 => { s with lastEdgeTime0 := t }
  | .ch2 => { s with lastEdgeTime1 := t }

/-- `pos <- z` (R22). -/
def State.setPos (s : State) (z : Position) : State := { s with pos := z }

/-- `hist <- h` (R21). -/
def State.setHist (s : State) (h : BitVec 2) : State := { s with hist := h }

/-- `rdata <- z` (R11). -/
def State.setRdata (s : State) (z : Position) : State := { s with rdata := some z }

/-- `rate <- r` (R11). -/
def State.setRate (s : State) (r : RateResult) : State := { s with rate := some r }

/-- The outputs hold no result (R67): how every operation begins, so that one that returns nothing returns nothing. -/
def State.quiet (s : State) : State := { s with rdata := none, rate := none }

/-- What the agents have ready from the next step on. -/
def State.setEnv (s : State) (env : List Offer) : State := { s with env := env }

/-! The push procedure, the decode pass and the reset. -/

/-- The end of the push procedure, after its store: `cursor`, `lastEdgeTime[ch]`, `timeOfLastTick`, `unconsumed`
(R120, R124). -/
def State.tick (s : State) (ch : Channel) (timestamp : Timestamp) : State :=
  { s.setLastEdgeTime ch timestamp with
    cursor := (s.cursor + 1) % s.params.c
    timeOfLastTick := timestamp
    unconsumed := min (s.unconsumed + 1) s.params.c }

/-- The interval a push stores: `delta * ((timestamp - lastEdgeTime[ch]) mod 2^T_W)` (R121, R122). -/
def intervalOf (s : State) (ch : Channel) (timestamp : Timestamp) (d : Int) : Interval :=
  d * (elapsed s.params.tW timestamp (s.lastEdgeTime ch) : Int)

/-- `PUSHEDGE ch, timestamp, delta` (R120). -/
def pushEdge (s : State) (ch : Channel) (timestamp : Timestamp) (d : Int) : Except Fault State :=
  match memWrite s s.cursor (intervalOf s ch timestamp d) with
  | .error f => .error f
  | .ok t => .ok (t.tick ch timestamp)

/-- The timing record of a pass (R83): a push for the classes CH1 and CH2, nothing for NONE and DBL. -/
def record (s : State) (code : BitVec 4) (now : Timestamp) : Except Fault State :=
  match edgeClass code with
  | .none => .ok s
  | .ch1 => pushEdge s .ch1 now (delta code)
  | .ch2 => pushEdge s .ch2 now (delta code)
  | .dbl => .ok s

/-- `pos <- wrap_sPOS_W(pos + delta)` (R112). -/
def State.addDelta (s : State) (d : Int) : State := s.setPos (wrapS s.params.posW (s.pos + d))

/-- The body of a decode pass with its code (R80): position, timing record, new history, in the source's order. `now`
is the value on the port (R126). -/
def decodePass (code : BitVec 4) (now : Nat) (s : State) : Except Fault State :=
  match record (s.addDelta (delta code)) code (portTime s.params now) with
  | .error f => .error f
  | .ok t => .ok (t.setHist (newHistory code))

/-- The state INIT leaves (R150, R34): every element at its reset value, and every slot at `SENTINEL`, which in the
ring's canonical form is the empty list. It reads no element. -/
def construct (s : State) (a b : Bool) (bound : BitVec 2) : State :=
  { params := s.params, built := true, hist := pairOf a b, pos := 0, poll := pollOfBound bound, cursor := 0,
    unconsumed := 0, timeOfLastTick := 0, lastEdgeTime0 := 0, lastEdgeTime1 := 0, ring := [], rdata := none,
    rate := none, env := s.env }

/-! What every operation does around its own effect. -/

/-- The outcome of an operation's effect. -/
def finish : Except Fault State → Host.Outcome State Fault Refusal
  | .ok t => .next t
  | .error f => .fault f

/-- An operation other than INIT: refused with a parameter set that breaks R7 (U11) and before the first INIT (R33,
U1), else its effect on the state with no result on the outputs yet (R67). -/
def operate (s : State) (effect : State → Except Fault State) : Host.Outcome State Fault Refusal :=
  if s.params.ok then
    if s.built then finish (effect s.quiet)
    else .refused .beforeInit
  else .refused .badParameters

/-- INIT, which is always meaningful with a parameter set that keeps R7 (R33, R150). -/
def operateInit (s : State) (effect : State → State) : Host.Outcome State Fault Refusal :=
  if s.params.ok then .next (effect s) else .refused .badParameters

/-! The presentation of operations by the two agents. -/

/-- The ports on which an edge notification is presented: an UPDATE (R162, R163). -/
def EdgeNotice.ports (e : EdgeNotice) : Ports := portsOf (.edge e.a e.b e.now)

/-- The operation presented at this step and what stays ready (R164): the UPDATE of an edge notification first and the
host operation next; with nothing ready, NOP (R151). -/
def present : List Offer → Ports × List Offer
  | [] => (Ports.idle, [])
  | offer :: rest =>
    match offer.edge, offer.host with
    | some e, none => (e.ports, rest)
    | some e, some io => (e.ports, { edge := none, host := some io } :: rest)
    | none, some io => (io, rest)
    | none, none => (Ports.idle, rest)

/-- One host operation made ready before everything else. -/
def State.offerHost (s : State) (io : Ports) : State := s.setEnv ({ edge := none, host := some io } :: s.env)

/-- The word of an operation placed so that the next step performs it: a command is the host's next operation; a decode
code is formed by an edge notification with the samples of its bits 2 and 3 when `hist` holds its bits 1..0 (R61). A
word of neither format leaves the state as it is. -/
def State.placeWord (s : State) (nbits w : Nat) : State :=
  if isCodeWord nbits w then
    if w < 16 then
      (s.setHist (BitVec.ofNat 2 (w % 4))).offerHost (portsOf (decodeCode (BitVec.ofNat 4 w) 0))
    else s
  else
    match decodeFrame s.params w with
    | .ok i => s.offerHost (portsOf i)
    | .error _ => s

end Sys2Proof.Machine
end

