-- ==== Sys2Proof/Machine/Control.lean ====
section
/-! DEFINITION. The control operations (44_control_ops.md): INIT (R150), NOP (R151), and the two reserved opcodes
(30_encoding.md R68). -/

namespace Sys2Proof.Machine

/-- INIT (R150), the block's reset; meaningful in every state, before the first INIT too (R33). -/
def execInit (a b : Bool) (bound : BitVec 2) (s : State) : Host.Outcome State Fault Refusal :=
  operateInit s (fun s => construct s a b bound)

/-- The body of NOP (R151): nothing. -/
def nopBody (s : State) : Except Fault State := .ok s

/-- NOP (R151): no state changes and no result is returned. -/
def execNop (s : State) : Host.Outcome State Fault Refusal := operate s nopBody

/-- The reserved opcode 0b110: "A model refuses them: it gives them no meaning" (R68, U2). -/
def execReserved6 (_s : State) : Host.Outcome State Fault Refusal := .refused (.reservedOpcode 6#3)

/-- The reserved opcode 0b111: "A model refuses them: it gives them no meaning" (R68, U2). -/
def execReserved7 (_s : State) : Host.Outcome State Fault Refusal := .refused (.reservedOpcode 7#3)

end Sys2Proof.Machine
end

