-- ==== Sys2Proof/Machine/Decoder.lean ====
section
/-! DEFINITION. The decoder (40_decoder.md): the sixteen decode codes (R84 to R99) and UPDATE (R80). -/

namespace Sys2Proof.Machine

/-! The sixteen decode codes: the body of a decode pass with the code fixed. Class NONE and class DBL do not read the
clock value of the pass (R80). DESIGN CHOICE (log entry 9; safe): the meaning has the effect of the rule's pseudocode
in every state; a pass only ever forms the code in a state whose `hist` is the code's bits 1..0. -/

/-- DC0 (R84): class NONE, delta 0, `hist <- 0`. -/
def execDc0 (s : State) : Host.Outcome State Fault Refusal :=
  operate s (decodePass 0#4 0)

/-- DC1 (R85): class CH1, delta +1, `hist <- 0`. -/
def execDc1 (now : Nat) (s : State) : Host.Outcome State Fault Refusal :=
  operate s (decodePass 1#4 now)

/-- DC2 (R86): class CH2, delta -1, `hist <- 0`. -/
def execDc2 (now : Nat) (s : State) : Host.Outcome State Fault Refusal :=
  operate s (decodePass 2#4 now)

/-- DC3 (R87): class DBL, delta +2, `hist <- 0`. -/
def execDc3 (s : State) : Host.Outcome State Fault Refusal :=
  operate s (decodePass 3#4 0)

/-- DC4 (R88): class CH1, delta -1, `hist <- 1`. -/
def execDc4 (now : Nat) (s : State) : Host.Outcome State Fault Refusal :=
  operate s (decodePass 4#4 now)

/-- DC5 (R89): class NONE, delta 0, `hist <- 1`. -/
def execDc5 (s : State) : Host.Outcome State Fault Refusal :=
  operate s (decodePass 5#4 0)

/-- DC6 (R90): class DBL, delta -2, `hist <- 1`. -/
def execDc6 (s : State) : Host.Outcome State Fault Refusal :=
  operate s (decodePass 6#4 0)

/-- DC7 (R91): class CH2, delta +1, `hist <- 1`. -/
def execDc7 (now : Nat) (s : State) : Host.Outcome State Fault Refusal :=
  operate s (decodePass 7#4 now)

/-- DC8 (R92): class CH2, delta +1, `hist <- 2`. -/
def execDc8 (now : Nat) (s : State) : Host.Outcome State Fault Refusal :=
  operate s (decodePass 8#4 now)

/-- DC9 (R93): class DBL, delta -2, `hist <- 2`. -/
def execDc9 (s : State) : Host.Outcome State Fault Refusal :=
  operate s (decodePass 9#4 0)

/-- DC10 (R94): class NONE, delta 0, `hist <- 2`. -/
def execDc10 (s : State) : Host.Outcome State Fault Refusal :=
  operate s (decodePass 10#4 0)

/-- DC11 (R95): class CH1, delta -1, `hist <- 2`. -/
def execDc11 (now : Nat) (s : State) : Host.Outcome State Fault Refusal :=
  operate s (decodePass 11#4 now)

/-- DC12 (R96): class DBL, delta +2, `hist <- 3`. -/
def execDc12 (s : State) : Host.Outcome State Fault Refusal :=
  operate s (decodePass 12#4 0)

/-- DC13 (R97): class CH2, delta -1, `hist <- 3`. -/
def execDc13 (now : Nat) (s : State) : Host.Outcome State Fault Refusal :=
  operate s (decodePass 13#4 now)

/-- DC14 (R98): class CH1, delta +1, `hist <- 3`. -/
def execDc14 (now : Nat) (s : State) : Host.Outcome State Fault Refusal :=
  operate s (decodePass 14#4 now)

/-- DC15 (R99): class NONE, delta 0, `hist <- 3`. -/
def execDc15 (s : State) : Host.Outcome State Fault Refusal :=
  operate s (decodePass 15#4 0)

/-- One decode pass over the samples presented (R80): the code is formed from `hist` and the pair. -/
def updateBody (a b : Bool) (now : Nat) (s : State) : Except Fault State :=
  decodePass (codeOf s.hist a b) now s

/-- UPDATE (R80), in either mode: `poll` does not gate it (R23). -/
def execUpdate (a b : Bool) (now : Nat) (s : State) : Host.Outcome State Fault Refusal :=
  operate s (updateBody a b now)

end Sys2Proof.Machine
end

