-- ==== Sys2Proof/Machine/Position.lean ====
section
/-! DEFINITION. The position register (41_position.md): READ (R110) and WRITE (R111). -/

namespace Sys2Proof.Machine

/-- The first half of READ (R110): a decode pass when `poll = 1`, nothing when `poll = 0`. -/
def pollFirst (a b : Bool) (now : Nat) (s : State) : Except Fault State :=
  if s.poll then updateBody a b now s else .ok s

/-- The body of READ (R110): the forced poll if the mode asks for it, then `rdata <- pos`. -/
def readBody (a b : Bool) (now : Nat) (s : State) : Except Fault State :=
  match pollFirst a b now s with
  | .error f => .error f
  | .ok t => .ok (t.setRdata t.pos)

/-- READ (R110). -/
def execRead (a b : Bool) (now : Nat) (s : State) : Host.Outcome State Fault Refusal :=
  operate s (readBody a b now)

/-- The body of WRITE (R111): `pos <- wdata`. -/
def writeBody (wdata : Int) (s : State) : Except Fault State :=
  .ok (s.setPos (portPosition s.params wdata))

/-- WRITE (R111); it never runs a decode pass (D17). -/
def execWrite (wdata : Int) (s : State) : Host.Outcome State Fault Refusal :=
  operate s (writeBody wdata)

end Sys2Proof.Machine
end

