-- ==== Sys2Proof/Machine/Rate.lean ====
section
/-! DEFINITION. The windowed rate estimator (43_rate_estimator.md): RATE (R130) in exact rational arithmetic (R10). -/

namespace Sys2Proof.Machine

/-- The local variables of one RATE (R30, R130): the accumulated velocity, the cumulative steps, and how many entries
have been visited. -/
structure Walk where
  acc : Rat
  cum : Nat
  visited : Nat
  deriving DecidableEq, Repr

/-- The velocity contribution of `steps` steps of an entry: `steps * 2 / iv` (R133). -/
def contribution (steps : Nat) (iv : Interval) : Rat := (steps : Rat) * 2 / (iv : Rat)

/-- One entry visited (R133, R134, R136); the second component says whether the walk leaves the loop. -/
def creditEntry (p : Params) (iv : Interval) (w : Walk) : Walk × Bool :=
  if stepsOf p iv = 0 then ({ w with visited := w.visited + 1 }, false)
  else if p.n < w.cum + stepsOf p iv then
    ({ acc := w.acc + contribution (p.n - w.cum) iv, cum := p.n, visited := w.visited + 1 }, true)
  else
    ({ acc := w.acc + contribution (stepsOf p iv) iv, cum := w.cum + stepsOf p iv, visited := w.visited + 1 }, false)

/-- The loop of R130 from walk index `k`, with `left` entries still to visit. -/
def rateWalk (s : State) : (left k : Nat) → Walk → Except Fault Walk
  | 0, _, w => .ok w
  | left + 1, k, w =>
    match memRead s (loadIndex s k) with
    | .error f => .error f
    | .ok iv =>
      match creditEntry s.params iv w with
      | (w', true) => .ok w'
      | (w', false) => rateWalk s left (k + 1) w'

/-- The walk from its start: `acc <- 0`, `cum <- 0`, `k` from 0 to `unconsumed - 1` (R130). -/
def fullWalk (s : State) : Except Fault Walk := rateWalk s s.unconsumed 0 { acc := 0, cum := 0, visited := 0 }

/-- The signal is stalled: `(now - timeOfLastTick) mod 2^T_W > WIN` (R131). -/
def stalled (s : State) (now : Timestamp) : Bool := decide (s.params.win < elapsed s.params.tW now s.timeOfLastTick)

/-- `exact` (R130, R131, R135). -/
def exactRate (s : State) (now : Timestamp) : Except Fault Rat :=
  if s.unconsumed = 0 then .ok 0
  else if stalled s now then .ok 0
  else
    match fullWalk s with
    | .error f => .error f
    | .ok w => .ok (w.acc / (s.params.n : Rat))

/-- `RateEncode` (R137): depends on `exact` alone, gives 0 the format's zero, keeps the sign; its bits are free values
(log entry 13). -/
def rateEncode (exact : Rat) : RateWord :=
  if exact < 0 then .neg (Config.rateBits exact)
  else if exact = 0 then .zero
  else .pos (Config.rateBits exact)

/-- The body of RATE (R130): `rate <- RateEncode(exact)`. -/
def rateBody (now : Nat) (s : State) : Except Fault State :=
  match exactRate s (portTime s.params now) with
  | .error f => .error f
  | .ok exact => .ok (s.setRate { exact := exact, word := rateEncode exact })

/-- RATE (R130); it changes no state and runs no decode pass (R138). -/
def execRate (now : Nat) (s : State) : Host.Outcome State Fault Refusal :=
  operate s (rateBody now)

end Sys2Proof.Machine
end

