-- ==== Sys2Proof/Machine/Dispatch.lean ====
section
/-! DEFINITION. One arm per operation, each a direct call of its meaning. -/

namespace Sys2Proof.Machine

def exec (i : Instr) (s : State) : Host.Outcome State Fault Refusal :=
  match i with
  | .dc0 => Sys2Proof.Machine.execDc0 s
  | .dc1 now => Sys2Proof.Machine.execDc1 now s
  | .dc2 now => Sys2Proof.Machine.execDc2 now s
  | .dc3 => Sys2Proof.Machine.execDc3 s
  | .dc4 now => Sys2Proof.Machine.execDc4 now s
  | .dc5 => Sys2Proof.Machine.execDc5 s
  | .dc6 => Sys2Proof.Machine.execDc6 s
  | .dc7 now => Sys2Proof.Machine.execDc7 now s
  | .dc8 now => Sys2Proof.Machine.execDc8 now s
  | .dc9 => Sys2Proof.Machine.execDc9 s
  | .dc10 => Sys2Proof.Machine.execDc10 s
  | .dc11 now => Sys2Proof.Machine.execDc11 now s
  | .dc12 => Sys2Proof.Machine.execDc12 s
  | .dc13 now => Sys2Proof.Machine.execDc13 now s
  | .dc14 now => Sys2Proof.Machine.execDc14 now s
  | .dc15 => Sys2Proof.Machine.execDc15 s
  | .nop => Sys2Proof.Machine.execNop s
  | .init a b bound => Sys2Proof.Machine.execInit a b bound s
  | .update a b now => Sys2Proof.Machine.execUpdate a b now s
  | .read a b now => Sys2Proof.Machine.execRead a b now s
  | .write wdata => Sys2Proof.Machine.execWrite wdata s
  | .rate now => Sys2Proof.Machine.execRate now s
  | .reserved6 => Sys2Proof.Machine.execReserved6 s
  | .reserved7 => Sys2Proof.Machine.execReserved7 s

end Sys2Proof.Machine
end

