-- ==== Sys2Proof/Machine/Step.lean ====
section
/-! DEFINITION. One step: the operation the agents present is decoded from the ports and performed as one atomic step
(20_memory.md R48, 60_exceptions.md R164). There is no program counter and no fetch (10_state.md R29). -/

namespace Sys2Proof.Machine

/-- The block performs the operation presented at this step; what stays ready is presented from the next step on. -/
def step (s : State) : Host.Outcome State Fault Refusal :=
  exec (decodePorts (present s.env).1) (s.setEnv (present s.env).2)

/-- The operation with this table word presented at the very next step (log entries 6 and 10). -/
def State.withFetchWord (s : State) (nbits w : Nat) : State := s.placeWord nbits w

end Sys2Proof.Machine
end

