-- ==== Sys2Proof/Safety.lean ====
section
/-! DEFINITION. What a good state and a safe run are, in the terms the claims use: the invariants of 10_state.md R35
with the ranges of R21 to R28, the contents of the ring as a list (R125), and a run of given operations (R12). -/

namespace Sys2Proof.Machine

/-- Every value is in the range of its register, slot or port (R22, R24 to R28, R65). -/
structure State.InRange (s : State) : Prop where
  pos : SFits s.params.posW s.pos
  cursor : s.cursor < s.params.c
  unconsumed : s.unconsumed ≤ s.params.c
  timeOfLastTick : UFits s.params.tW s.timeOfLastTick
  lastEdgeTime0 : UFits s.params.tW s.lastEdgeTime0
  lastEdgeTime1 : UFits s.params.tW s.lastEdgeTime1
  slots : ∀ i, (Memory.get s.ring i).natAbs < 2 ^ s.params.tW
  rdata : ∀ z, s.rdata = some z → SFits s.params.posW z

/-- The invariants of the timing state (R35): `cursor` and `unconsumed` count the same pushes, only written slots hold
anything, nothing is recorded while `unconsumed = 0`, and the last tick is the last edge of one of the channels. -/
structure State.TimingInv (s : State) : Prop where
  ring : Memory.wf s.ring = true
  counted : s.unconsumed < s.params.c → s.cursor = s.unconsumed
  written : ∀ i, Memory.get s.ring i ≠ sentinel → i < s.unconsumed
  nothingYet : s.unconsumed = 0 → s.timeOfLastTick = 0 ∧ s.lastEdgeTime0 = 0 ∧ s.lastEdgeTime1 = 0
  lastTick : 0 < s.unconsumed → s.timeOfLastTick = s.lastEdgeTime0 ∨ s.timeOfLastTick = s.lastEdgeTime1

/-- What port `rate` shows (R135, R137): the rendering of `exact`, whose magnitude is at most `2 / Q`. -/
def State.RateInv (s : State) : Prop :=
  ∀ r, s.rate = some r → r.word = rateEncode r.exact ∧ |r.exact| ≤ 2 / (s.params.q : Rat)

/-- The invariant of the machine. -/
structure State.Inv (s : State) : Prop where
  params : s.params.ok = true
  range : s.InRange
  timing : s.TimingInv
  rate : s.RateInv

/-- An instance that an INIT has constructed and whose state is good: every operation but a reserved one is meaningful
in it. -/
structure State.Live (s : State) : Prop where
  built : s.built = true
  inv : s.Inv

/-- `RingContents` (R125): the recorded intervals still retained, oldest first. -/
def State.ringContents (s : State) : List Interval :=
  (List.range s.unconsumed).map
    (fun i => Memory.get s.ring ((s.cursor + s.params.c - s.unconsumed + i) % s.params.c))

/-- The same list newest first, the order of the RATE walk (R125, R133). -/
def State.newestFirst (s : State) : List Interval :=
  (List.range s.unconsumed).map (fun k => Memory.get s.ring (loadIndex s k))

/-- A run of given operations from a state, stopping at the first stop (R12). -/
def runOps : List Instr → State → Host.Outcome State Fault Refusal
  | [], s => .next s
  | i :: rest, s =>
    match exec i s with
    | .next t => runOps rest t
    | .fault f => .fault f
    | .refused r => .refused r

/-- A step that does not fault: the block raises nothing (R160). -/
def Safe (s : State) : Prop := ∀ f, step s ≠ .fault f

end Sys2Proof.Machine
end

