-- ==== Sys2Proof/Certificates/Slice0/Obligations.lean ====
section
/-! DEFINITION. The statements for the provers, from the numbered rules of spec/. The helpers under `Expected` write the
effect a rule gives in full, so that a statement reads beside its rule. -/

namespace Sys2Proof

open Machine

/-- A pass that records nothing: position and history, no result (R80, R83). -/
def Expected.noRecord (s : State) (d : Int) (h : BitVec 2) : State :=
  { s with pos := wrapS s.params.posW (s.pos + d), hist := h, rdata := none, rate := none }

/-- A pass that records an edge of a channel (R80, R120): position and history as above; slot `cursor` takes the signed
time since that channel's last edge; cursor, that channel's register, the last tick and the counter move. -/
def Expected.push (s : State) (ch : Channel) (now : Timestamp) (d : Int) (h : BitVec 2) : State :=
  { s with
    pos := wrapS s.params.posW (s.pos + d)
    hist := h
    ring := Memory.put s.ring s.cursor
      (d * (((now : Int) - (match ch with | .ch1 => s.lastEdgeTime0 | .ch2 => s.lastEdgeTime1 : Nat)) % 2 ^ s.params.tW))
    cursor := (s.cursor + 1) % s.params.c
    unconsumed := min (s.unconsumed + 1) s.params.c
    timeOfLastTick := now
    lastEdgeTime0 := match ch with | .ch1 => now | .ch2 => s.lastEdgeTime0
    lastEdgeTime1 := match ch with | .ch1 => s.lastEdgeTime1 | .ch2 => now
    rdata := none
    rate := none }

/-- The decode pass with a code, by the tables of R82 and R83. -/
def Expected.pass (s : State) (code : BitVec 4) (now : Timestamp) : State :=
  match edgeClass code with
  | .ch1 => Expected.push s .ch1 now (delta code) (newHistory code)
  | .ch2 => Expected.push s .ch2 now (delta code) (newHistory code)
  | .none => Expected.noRecord s (delta code) (newHistory code)
  | .dbl => Expected.noRecord s (delta code) (newHistory code)

/-- The pass by the closed forms of R101: what differs from the history decides class and direction. -/
def Expected.closedFormPass (s : State) (a b : Bool) (now : Timestamp) : State :=
  let h1 := s.hist.getLsbD 0
  let h2 := s.hist.getLsbD 1
  match (h1 != a), (h2 != b) with
  | false, false => Expected.noRecord s 0 (pairOf a b)
  | true, false => Expected.push s .ch1 now (if a = b then 1 else -1) (pairOf a b)
  | false, true => Expected.push s .ch2 now (if a ≠ b then 1 else -1) (pairOf a b)
  | true, true => Expected.noRecord s (if h1 = h2 then 2 else -2) (pairOf a b)

/-- The UPDATE of a pass over a sample pair. -/
def Expected.updateOf (e : EdgeNotice) : Instr := .update e.a e.b e.now

/-- The codes formed by passes over the samples, from a history (R62, R63). -/
def Expected.codes : BitVec 2 → List EdgeNotice → List (BitVec 4)
  | _, [] => []
  | h, e :: rest => codeOf h e.a e.b :: Expected.codes (pairOf e.a e.b) rest

/-- The history after passes over the samples (R63). -/
def Expected.lastPair : BitVec 2 → List EdgeNotice → BitVec 2
  | h, [] => h
  | _, e :: rest => Expected.lastPair (pairOf e.a e.b) rest

/-- The intervals that passes over the samples push, in order, from a history and the two last-edge times (R120). -/
def Expected.pushed (tW : Nat) : BitVec 2 → (last0 last1 : Timestamp) → List EdgeNotice → List Interval
  | _, _, _, [] => []
  | h, last0, last1, e :: rest =>
    let code := codeOf h e.a e.b
    match edgeClass code with
    | .ch1 => delta code * (elapsed tW e.now last0 : Int) :: Expected.pushed tW (pairOf e.a e.b) e.now last1 rest
    | .ch2 => delta code * (elapsed tW e.now last1 : Int) :: Expected.pushed tW (pairOf e.a e.b) last0 e.now rest
    | .none => Expected.pushed tW (pairOf e.a e.b) last0 last1 rest
    | .dbl => Expected.pushed tW (pairOf e.a e.b) last0 last1 rest

/-- The entry at walk index `k`: slot `(cursor + C - 1 - k) mod C` (R133). -/
def Expected.entry (s : State) (k : Nat) : Interval :=
  Memory.get s.ring ((s.cursor + s.params.c - 1 - k) % s.params.c)

/-- The steps of the entry at walk index `k`: `floor(abs(iv) / Q)` (R132). -/
def Expected.steps (s : State) (k : Nat) : Nat := (Expected.entry s k).natAbs / s.params.q

/-- The steps credited to the entry at walk index `k`: its own, or what the budget `N` still holds after the newer
entries, whichever is less (R133, R136). -/
def Expected.creditedSteps (s : State) (k : Nat) : Nat :=
  min (Expected.steps s k) (s.params.n - ((List.range k).map (Expected.steps s)).sum)

/-- `exact` as the sum of R135: `(1 / N) * sum of (2 * s_i / iv_i)`. -/
def Expected.exactSum (s : State) : Rat :=
  ((List.range s.unconsumed).map
    (fun k => 2 * (Expected.creditedSteps s k : Rat) / (Expected.entry s k : Rat))).sum / (s.params.n : Rat)

/-- The next sample pair in the counting-up order of R101: (0,0), (0,1), (1,1), (1,0), (0,0). -/
def Expected.forward (e : Bool × Bool) : Bool × Bool := (e.2, !e.1)

/-- `m` single steps in the counting-up order. -/
def Expected.forwardBy : Nat → Bool × Bool → Bool × Bool
  | 0, e => e
  | m + 1, e => Expected.forwardBy m (Expected.forward e)

end Sys2Proof

open Sys2Proof Machine

/-! ## The decoder: the sixteen decode codes and UPDATE -/

/-- R82 with R83 and R63: `DELTA[code]`, the class and the new history of the sixteen codes, in the order of the table. -/
def Obligations.DecodeTableIsTheSpecs : Prop :=
  (List.range 16).map (fun c => delta (BitVec.ofNat 4 c)) = [0, 1, -1, 2, -1, 0, -2, 1, 1, -2, 0, -1, 2, -1, 1, 0] ∧
  (List.range 16).map (fun c => edgeClass (BitVec.ofNat 4 c)) =
    [.none, .ch1, .ch2, .dbl, .ch1, .none, .dbl, .ch2, .ch2, .dbl, .none, .ch1, .dbl, .ch2, .ch1, .none] ∧
  (List.range 16).map (fun c => newHistory (BitVec.ofNat 4 c)) =
    [0#2, 0#2, 0#2, 0#2, 1#2, 1#2, 1#2, 1#2, 2#2, 2#2, 2#2, 2#2, 3#2, 3#2, 3#2, 3#2]

/-- R84, R89, R94, R99: class NONE, with the encodings. `delta = 0; pos <- pos; hist <- code >> 2`; no push.
The rules fix `hist` as an operand: that a code has this effect also where `hist` is not its bits 1..0 is the model's own
choice (log entry 9, notes/assumptions/9.md). -/
def Obligations.NoMovementCodesOnlySetHist : Prop :=
  (∀ now, decodeCode 0b0000#4 now = .dc0 ∧ decodeCode 0b0101#4 now = .dc5 ∧ decodeCode 0b1010#4 now = .dc10 ∧
    decodeCode 0b1111#4 now = .dc15) ∧
  ∀ s : State, s.Live →
    exec .dc0 s = .next { s with hist := 0#2, rdata := none, rate := none } ∧
    exec .dc5 s = .next { s with hist := 1#2, rdata := none, rate := none } ∧
    exec .dc10 s = .next { s with hist := 2#2, rdata := none, rate := none } ∧
    exec .dc15 s = .next { s with hist := 3#2, rdata := none, rate := none }

/-- R85, R88, R95, R98: class CH1, with the encodings. The position moves by the delta and an edge of channel 1 is
pushed. The rules fix `hist` as an operand: that a code has this effect also where `hist` is not its bits 1..0, and that it
carries the clock value of its pass, is the model's own choice (log entry 9, notes/assumptions/9.md). -/
def Obligations.ChannelOneCodesStepAndPush : Prop :=
  (∀ now, decodeCode 0b0001#4 now = .dc1 now ∧ decodeCode 0b0100#4 now = .dc4 now ∧
    decodeCode 0b1011#4 now = .dc11 now ∧ decodeCode 0b1110#4 now = .dc14 now) ∧
  ∀ (s : State) (now : Timestamp), s.Live → UFits s.params.tW now →
    exec (.dc1 now) s = .next (Expected.push s .ch1 now 1 0#2) ∧
    exec (.dc4 now) s = .next (Expected.push s .ch1 now (-1) 1#2) ∧
    exec (.dc11 now) s = .next (Expected.push s .ch1 now (-1) 2#2) ∧
    exec (.dc14 now) s = .next (Expected.push s .ch1 now 1 3#2)

/-- R86, R91, R92, R97: class CH2, with the encodings. The position moves by the delta and an edge of channel 2 is
pushed. The rules fix `hist` as an operand: that a code has this effect also where `hist` is not its bits 1..0, and that it
carries the clock value of its pass, is the model's own choice (log entry 9, notes/assumptions/9.md). -/
def Obligations.ChannelTwoCodesStepAndPush : Prop :=
  (∀ now, decodeCode 0b0010#4 now = .dc2 now ∧ decodeCode 0b0111#4 now = .dc7 now ∧
    decodeCode 0b1000#4 now = .dc8 now ∧ decodeCode 0b1101#4 now = .dc13 now) ∧
  ∀ (s : State) (now : Timestamp), s.Live → UFits s.params.tW now →
    exec (.dc2 now) s = .next (Expected.push s .ch2 now (-1) 0#2) ∧
    exec (.dc7 now) s = .next (Expected.push s .ch2 now 1 1#2) ∧
    exec (.dc8 now) s = .next (Expected.push s .ch2 now 1 2#2) ∧
    exec (.dc13 now) s = .next (Expected.push s .ch2 now (-1) 3#2)

/-- R87, R90, R93, R96: class DBL, with the encodings. The position moves by two; nothing is recorded and the timing
state is unchanged. The rules fix `hist` as an operand: that a code has this effect also where `hist` is not its bits
1..0 is the model's own choice (log entry 9, notes/assumptions/9.md). -/
def Obligations.DoubleStepCodesMoveByTwoAndRecordNothing : Prop :=
  (∀ now, decodeCode 0b0011#4 now = .dc3 ∧ decodeCode 0b0110#4 now = .dc6 ∧ decodeCode 0b1001#4 now = .dc9 ∧
    decodeCode 0b1100#4 now = .dc12) ∧
  ∀ s : State, s.Live →
    exec .dc3 s = .next (Expected.noRecord s 2 0#2) ∧
    exec .dc6 s = .next (Expected.noRecord s (-2) 1#2) ∧
    exec .dc9 s = .next (Expected.noRecord s (-2) 2#2) ∧
    exec .dc12 s = .next (Expected.noRecord s 2 3#2)

/-- R80: opcode `0b010` is UPDATE, one decode pass with the code formed from `hist` and the samples. -/
def Obligations.UpdateIsOneDecodePass : Prop :=
  (∀ io : Ports, io.op = 0b010#3 → decodePorts io = .update io.a io.b io.now) ∧
  ∀ (s : State) (a b : Bool) (now : Timestamp), s.Live → UFits s.params.tW now →
    exec (.update a b now) s = .next (Expected.pass s (codeOf s.hist a b) now)

/-- R80 with R62: in every state, UPDATE does what the decode code it forms does. That a code is an operation carrying a
clock value is the model's own choice (log entry 9). -/
def Obligations.UpdateRunsTheCodeItForms : Prop :=
  ∀ (s : State) (a b : Bool) (now : Timestamp),
    exec (.update a b now) s = exec (decodeCode (codeOf s.hist a b) now) s

/-- R101: the closed forms of class and delta describe every pass. -/
def Obligations.UpdateFollowsTheClosedForms : Prop :=
  ∀ (s : State) (a b : Bool) (now : Timestamp), s.Live → UFits s.params.tW now →
    exec (.update a b now) s = .next (Expected.closedFormPass s a b now)

/-- R80, corner cases: when the pair equals `hist` the pass changes no state, whatever the clock value. -/
def Obligations.SpuriousPassChangesNothing : Prop :=
  ∀ (s : State) (a b : Bool) (now : Nat), s.Live → pairOf a b = s.hist →
    exec (.update a b now) s = .next { s with rdata := none, rate := none }

/-- R21, R35: `hist` equals `a | (b << 1)` of the latest operation that ran a decode pass or was INIT; READ runs one
exactly when `poll = 1`. -/
def Obligations.HistHoldsTheLatestPair : Prop :=
  ∀ (s t : State) (a b : Bool) (now : Nat) (bound : BitVec 2),
    (exec (.init a b bound) s = .next t → t.hist = pairOf a b) ∧
    (exec (.update a b now) s = .next t → t.hist = pairOf a b) ∧
    (exec (.read a b now) s = .next t → t.hist = if s.poll then pairOf a b else s.hist)

/-- R102: position over a sequence of decode passes, each an UPDATE. -/
def Obligations.PositionAddsTheDeltasOfThePasses : Prop :=
  ∀ (s : State) (es : List EdgeNotice), s.Live → (∀ e ∈ es, UFits s.params.tW e.now) →
    ∃ t, runOps (es.map Expected.updateOf) s = .next t ∧
      t.pos = wrapS s.params.posW (s.pos + ((Expected.codes s.hist es).map delta).sum) ∧
      t.hist = Expected.lastPair s.hist es

/-- R101, last bullet: the four single steps of one cycle in the counting-up order add 4, from every pair. -/
def Obligations.OneForwardCycleAddsFour : Prop :=
  ∀ (s : State) (a b : Bool) (n1 n2 n3 n4 : Timestamp), s.Live → pairOf a b = s.hist →
    ∃ t, runOps [.update b (!a) n1, .update (!a) (!b) n2, .update (!b) a n3, .update a b n4] s = .next t ∧
      t.pos = wrapS s.params.posW (s.pos + 4) ∧ t.hist = s.hist

/-- R101, reversal of a single step: a pass over a pair that differs in one channel and a pass back restore the
position and the history. -/
def Obligations.SingleStepAndBackCancel : Prop :=
  ∀ (s : State) (a b a' b' : Bool) (n1 n2 : Timestamp), s.Live → pairOf a b = s.hist →
    (a' != a) = !(b' != b) →
    ∃ t, runOps [.update a' b' n1, .update a b n2] s = .next t ∧ t.pos = s.pos ∧ t.hist = s.hist

/-- R187: a double step and its reverse do not cancel; +4 between (0,0) and (1,1), -4 between (0,1) and (1,0). -/
def Obligations.DoubleStepAndBackMovesByFour : Prop :=
  ∀ (s : State) (a b : Bool) (n1 n2 : Timestamp), s.Live → pairOf a b = s.hist →
    ∃ t, runOps [.update (!a) (!b) n1, .update a b n2] s = .next t ∧
      t.pos = wrapS s.params.posW (s.pos + if a = b then 4 else -4) ∧ t.ring = s.ring ∧
      t.timeOfLastTick = s.timeOfLastTick

/-- R186: a pass after `m` unseen steps in the counting-up order credits 0, +1, -1 or a double step by `m` modulo 4; the
sign of the double step is fixed by the old pair alone. -/
def Obligations.UnseenStepsAliasModuloFour : Prop :=
  ∀ (s : State) (a b : Bool) (m : Nat) (now : Timestamp), s.Live → pairOf a b = s.hist →
    let e := Expected.forwardBy m (a, b)
    ∃ t, exec (.update e.1 e.2 now) s = .next t ∧
      t.pos = wrapS s.params.posW (s.pos +
        (match m % 4 with | 0 => 0 | 1 => 1 | 3 => -1 | _ => if a = b then 2 else -2))

/-! ## The position register -/

/-- R110: opcode `0b011` is READ, which runs the decode pass first when `poll = 1`, and then returns `pos`. -/
def Obligations.ReadPollsThenReturnsThePosition : Prop :=
  (∀ io : Ports, io.op = 0b011#3 → decodePorts io = .read io.a io.b io.now) ∧
  ∀ (s : State) (a b : Bool) (now : Timestamp), s.Live → (s.poll = true → UFits s.params.tW now) →
    let t := if s.poll then Expected.pass s (codeOf s.hist a b) now else { s with rdata := none, rate := none }
    exec (.read a b now) s = .next { t with rdata := some t.pos }

/-- R111: opcode `0b100` is WRITE, which sets `pos` to any signed value and touches nothing else, in either mode. -/
def Obligations.WriteSetsThePositionOnly : Prop :=
  (∀ io : Ports, io.op = 0b100#3 → decodePorts io = .write io.wdata) ∧
  ∀ (s : State) (x : Position), s.Live → SFits s.params.posW x →
    exec (.write x) s = .next { s with pos := x, rdata := none, rate := none }

/-- R112: adding a delta is the `POS_W`-bit two's-complement addition of `pos` and the sign-extended delta field with
the carry out discarded. -/
def Obligations.PositionAdditionIsTwosComplement : Prop :=
  ∀ (w : Nat) (pos : Position) (code : BitVec 4), 3 ≤ w →
    wrapS w (pos + delta code) = (BitVec.ofInt w pos + (deltaBits code).signExtend w).toInt

/-- R115, first property: WRITE then READ returns the value written, with `poll = 0`, or with `poll = 1` when the
samples presented equal `hist`. -/
def Obligations.WriteThenReadReturnsTheValue : Prop :=
  ∀ (s : State) (x : Position) (a b : Bool) (now : Timestamp), s.Live → SFits s.params.posW x →
    (s.poll = true → pairOf a b = s.hist) →
    ∃ t, runOps [.write x, .read a b now] s = .next t ∧ t.rdata = some x

/-- R115, second property: two READs with nothing between return the same value when `poll = 0`, and when `poll = 1` if
the samples are the same. -/
def Obligations.ReadThenReadReturnsTheSame : Prop :=
  ∀ (s : State) (a b a' b' : Bool) (n1 n2 : Timestamp), s.Live → (s.poll = true → a' = a ∧ b' = b) →
    ∃ t u z, exec (.read a b n1) s = .next t ∧ exec (.read a' b' n2) t = .next u ∧ t.rdata = some z ∧ u.rdata = some z

/-- R115, third and fourth properties: WRITE is last-writer-wins, and a decode pass after WRITE counts from the value
written. -/
def Obligations.WriteThenWriteOrPass : Prop :=
  ∀ (s : State) (x y : Position) (a b : Bool) (now : Timestamp), s.Live → SFits s.params.posW x → SFits s.params.posW y →
    (∃ t, runOps [.write x, .write y] s = .next t ∧ t.pos = y) ∧
    (∃ t, runOps [.write x, .update a b now] s = .next t ∧
      t.pos = wrapS s.params.posW (x + delta (codeOf s.hist a b)))

/-! ## The edge-interval ring buffer -/

/-- R121: the unsigned difference is the true elapsed time modulo `2^T_W`, whether or not the clock wrapped between. -/
def Obligations.ElapsedTimeSurvivesClockRollover : Prop :=
  ∀ (w : Nat) (earlier : Timestamp) (d : Nat), UFits w earlier →
    elapsed w ((earlier + d) % 2 ^ w) earlier = d % 2 ^ w

/-- R123: a pass of class CH1 or CH2 appends its interval to the ring's contents, and drops the oldest one exactly when
the ring is full. -/
def Obligations.PushAppendsAndDropsTheOldestWhenFull : Prop :=
  ∀ (s : State) (a b : Bool) (now : Timestamp) (ch : Channel), s.Live → UFits s.params.tW now →
    edgeClass (codeOf s.hist a b) = (match ch with | .ch1 => .ch1 | .ch2 => .ch2) →
    ∃ t, exec (.update a b now) s = .next t ∧
      t.ringContents =
        (if s.unconsumed < s.params.c then s.ringContents else s.ringContents.tail) ++
          [delta (codeOf s.hist a b) * (elapsed s.params.tW now (s.lastEdgeTime ch) : Int)]

/-- R125 for the passes of UPDATEs, with R35: after an INIT and any such passes, the ring's contents are the last
`min(p, C)` of the `p` intervals pushed, in the order pushed; newest first they are the list of the RATE walk; and
`cursor = p mod C`, `unconsumed = min(p, C)`. Pushes by a READ with `poll = 1` are not covered here. -/
def Obligations.RingHoldsTheLastIntervalsPushed : Prop :=
  ∀ (s : State) (a b : Bool) (bound : BitVec 2) (es : List EdgeNotice), s.params.ok = true →
    (∀ e ∈ es, UFits s.params.tW e.now) →
    let ivs := Expected.pushed s.params.tW (pairOf a b) 0 0 es
    ∃ t, runOps (.init a b bound :: es.map Expected.updateOf) s = .next t ∧
      t.ringContents = ivs.drop (ivs.length - s.params.c) ∧ t.newestFirst = t.ringContents.reverse ∧
      t.cursor = ivs.length % s.params.c ∧ t.unconsumed = min ivs.length s.params.c

/-- R25, R124: no operation but INIT lowers `unconsumed`, and none raises it by more than one or past `C`. -/
def Obligations.UnconsumedOnlyCountsUp : Prop :=
  ∀ (s t : State) (i : Instr), s.Inv → i.isInit = false → exec i s = .next t →
    s.unconsumed ≤ t.unconsumed ∧ t.unconsumed ≤ s.unconsumed + 1 ∧ t.unconsumed ≤ t.params.c

/-! ## The windowed rate estimator -/

/-- R130, R138: opcode `0b101` is RATE. It answers with some exact rational and its rendering, changes no state in either mode, and answers
the same when repeated with the same `now`. -/
def Obligations.RateChangesNoStateAndRepeats : Prop :=
  (∀ io : Ports, io.op = 0b101#3 → decodePorts io = .rate io.now) ∧
  ∀ (s : State) (now : Timestamp), s.Live →
    ∃ q, exec (.rate now) s = .next { s with rdata := none, rate := some { exact := q, word := rateEncode q } } ∧
      exec (.rate now) { s with rdata := none, rate := some { exact := q, word := rateEncode q } } =
        .next { s with rdata := none, rate := some { exact := q, word := rateEncode q } }

/-- R131: with no edge recorded, or with more than `WIN` time units since the last tick, the result is 0, the format's
zero. -/
def Obligations.RateIsZeroWithoutEdgesOrWhenStalled : Prop :=
  ∀ (s : State) (now : Timestamp), s.Live → UFits s.params.tW now →
    (s.unconsumed = 0 ∨ (s.params.win : Int) < ((now : Int) - s.timeOfLastTick) % 2 ^ s.params.tW) →
    exec (.rate now) s = .next { s with rdata := none, rate := some { exact := 0, word := .zero } }

/-- R135 with R132, R133, R134, R136: otherwise the walk's result is the weighted sum over the retained intervals,
newest first, each credited with its steps as far as the budget reaches. -/
def Obligations.RateIsTheWindowedWeightedSum : Prop :=
  ∀ (s : State) (now : Timestamp), s.Live → UFits s.params.tW now → 0 < s.unconsumed →
    ((now : Int) - s.timeOfLastTick) % 2 ^ s.params.tW ≤ (s.params.win : Int) →
    exec (.rate now) s =
      .next { s with rdata := none,
                     rate := some { exact := Expected.exactSum s, word := rateEncode (Expected.exactSum s) } }

/-- R135: the magnitude of every result is at most `2 / Q`, in every state with a good parameter set. -/
def Obligations.RateIsAtMostTwoOverQ : Prop :=
  ∀ (s t : State) (now : Nat), exec (.rate now) s = .next t →
    ∃ r, t.rate = some r ∧ |r.exact| ≤ 2 / (s.params.q : Rat)

/-- R141: in steady state, with `n` newest entries equal to `T`, a multiple of `Q`, that fill the window, the result is
`2 / T`. -/
def Obligations.SteadyRotationGivesTwoOverT : Prop :=
  ∀ (s : State) (now : Timestamp) (T : Int) (n : Nat), s.Live → UFits s.params.tW now →
    ((now : Int) - s.timeOfLastTick) % 2 ^ s.params.tW ≤ (s.params.win : Int) →
    n ≤ s.unconsumed → (∀ k < n, Expected.entry s k = T) →
    s.params.q ≤ T.natAbs → T.natAbs % s.params.q = 0 → s.params.n ≤ n * (T.natAbs / s.params.q) →
    exec (.rate now) s =
      .next { s with rdata := none, rate := some { exact := 2 / (T : Rat), word := rateEncode (2 / (T : Rat)) } }

/-- R195: intervals shorter than `Q` are invisible; a buffer that holds no other gives 0. -/
def Obligations.IntervalsShorterThanQAreInvisible : Prop :=
  ∀ (s : State) (now : Timestamp), s.Live → (∀ k < s.unconsumed, (Expected.entry s k).natAbs < s.params.q) →
    exec (.rate now) s = .next { s with rdata := none, rate := some { exact := 0, word := .zero } }

/-- R137: the rendering keeps the sign, and it is the format's zero exactly for 0. -/
def Obligations.RateOutputKeepsTheSign : Prop :=
  ∀ (s t : State) (now : Nat) (r : RateResult), exec (.rate now) s = .next t → t.rate = some r →
    (r.exact < 0 ↔ ∃ bits, r.word = .neg bits) ∧ (r.exact = 0 ↔ r.word = .zero) ∧
      (0 < r.exact ↔ ∃ bits, r.word = .pos bits)

/-- R138, R196: with a later `now` the result may become 0 by the stall, and nothing else about it can differ. -/
def Obligations.RateDiffersOnlyByTheStall : Prop :=
  ∀ (s t u : State) (n1 n2 : Nat) (r1 r2 : RateResult), s.Live →
    exec (.rate n1) s = .next t → exec (.rate n2) s = .next u → t.rate = some r1 → u.rate = some r2 →
    r1 = r2 ∨ r1.exact = 0 ∨ r2.exact = 0

/-- R188 (c): a RATE whose `now` is one unit before the last tick returns 0. The elapsed time is then `2^T_W - 1`, so
the window must be below that. -/
def Obligations.RateOneUnitBeforeTheTickIsZero : Prop :=
  ∀ (s : State) (now : Timestamp), s.Live → UFits s.params.tW now → s.timeOfLastTick = (now + 1) % 2 ^ s.params.tW →
    s.params.win < 2 ^ s.params.tW - 1 →
    exec (.rate now) s = .next { s with rdata := none, rate := some { exact := 0, word := .zero } }

/-- R193: WRITE does not touch the rate, and after INIT it is 0. -/
def Obligations.WriteKeepsTheRateAndInitErasesIt : Prop :=
  ∀ (s : State) (x : Position) (now : Nat) (a b : Bool) (bound : BitVec 2), s.Live →
    (∃ t u, exec (.rate now) s = .next t ∧ runOps [.write x, .rate now] s = .next u ∧ u.rate = t.rate) ∧
    (∃ v, runOps [.init a b bound, .rate now] s = .next v ∧ v.rate = some { exact := 0, word := .zero })

/-! ## Control operations, reset and refusals -/

/-- R150: opcode `0b001` is INIT, which leaves the reset table, in every state, and every slot reads as `SENTINEL` = 0. -/
def Obligations.InitLeavesTheResetTable : Prop :=
  (∀ io : Ports, io.op = 0b001#3 → decodePorts io = .init io.a io.b io.bound) ∧
  ∀ (s : State) (a b : Bool) (bound : BitVec 2), s.params.ok = true →
    ∃ t, exec (.init a b bound) s = .next t ∧
      t.hist = pairOf a b ∧ t.pos = 0 ∧ t.poll = !(bound.getLsbD 0 && bound.getLsbD 1) ∧ t.cursor = 0 ∧
      t.unconsumed = 0 ∧ t.timeOfLastTick = 0 ∧ t.lastEdgeTime0 = 0 ∧ t.lastEdgeTime1 = 0 ∧
      (∀ i < s.params.c, memRead t i = .ok 0) ∧ t.rdata = none ∧ t.rate = none ∧ t.built = true ∧
      t.params = s.params ∧ t.env = s.env

/-- R150: INIT reads no state. -/
def Obligations.InitReadsNoState : Prop :=
  ∀ (s s' : State) (a b : Bool) (bound : BitVec 2), s.params = s'.params → s.env = s'.env →
    exec (.init a b bound) s = exec (.init a b bound) s'

/-- R151: opcode `0b000` is NOP, which changes no state and returns no result, and is refused before the first INIT. -/
def Obligations.NopChangesNothing : Prop :=
  (∀ io : Ports, io.op = 0b000#3 → decodePorts io = .nop) ∧
  (∀ s : State, s.Live → exec .nop s = .next { s with rdata := none, rate := none }) ∧
  ∀ s : State, s.params.ok = true → s.built = false → exec .nop s = .refused .beforeInit

/-- R68: a model refuses the reserved opcodes `0b110` and `0b111`, in every state. -/
def Obligations.ReservedOpcodesAreRefused : Prop :=
  (∀ io : Ports, (io.op = 0b110#3 → decodePorts io = .reserved6) ∧ (io.op = 0b111#3 → decodePorts io = .reserved7)) ∧
  ∀ s : State, exec .reserved6 s = .refused (.reservedOpcode 6#3) ∧ exec .reserved7 s = .refused (.reservedOpcode 7#3)

/-- R33: before the first INIT every operation but INIT is refused, and INIT is not. -/
def Obligations.BeforeInitOnlyInitHasAMeaning : Prop :=
  ∀ (s : State) (i : Instr), s.params.ok = true → s.built = false →
    (i.isInit = false → ∃ r, exec i s = .refused r ∧ (i.isReserved = false → r = .beforeInit)) ∧
    (i.isInit = true → ∃ t, exec i s = .next t ∧ t.built = true)

/-- R7: a parameter set that breaks a constraint is refused. That every operation refuses it as `badParameters`, before
it looks at whether an INIT has been performed, is the model's own choice (log entry 22, notes/assumptions/22.md: R7 does
not say when). -/
def Obligations.BadParameterSetsAreRefused : Prop :=
  ∀ (s : State) (i : Instr),
    ¬ (1 ≤ s.params.c ∧ 1 ≤ s.params.q ∧ s.params.q ≤ s.params.win ∧ s.params.win % s.params.q = 0 ∧
        3 ≤ s.params.posW ∧ 1 ≤ s.params.tW ∧ s.params.win < 2 ^ s.params.tW) →
    ∃ r, exec i s = .refused r ∧ (i.isReserved = false → r = .badParameters)

/-- R6: `CUR_W` is the least width that holds `C` values and `CNT_W` the least that holds `C + 1`. -/
def Obligations.DerivedWidthsAreTheLeast : Prop :=
  ∀ (p : Params),
    p.c ≤ 2 ^ p.curW ∧ (∀ w, p.c ≤ 2 ^ w → p.curW ≤ w) ∧ p.c + 1 ≤ 2 ^ p.cntW ∧ (∀ w, p.c + 1 ≤ 2 ^ w → p.cntW ≤ w)

/-- R160: every operation completes in a live state; the two reserved opcodes alone are refused. -/
def Obligations.EveryOperationCompletesInALiveState : Prop :=
  ∀ (s : State) (i : Instr), s.Live → i.isReserved = false → ∃ t, exec i s = .next t ∧ t.Live

/-- R160: no step faults, whatever is presented. -/
def Obligations.NoStepFaults : Prop := ∀ s : State, s.Inv → Safe s

/-! ## Frames -/

/-- R23, R32, R36: no operation changes the parameters, INIT alone writes `poll`, and none changes what the agents have
ready. -/
def Obligations.OnlyInitWritesPoll : Prop :=
  ∀ (s t : State) (i : Instr), exec i s = .next t →
    t.params = s.params ∧ t.env = s.env ∧ t.built = true ∧ (i.isInit = false → t.poll = s.poll)

/-- R36: frame of UPDATE. Only slot `cursor` may change; only the channel that had the edge has its register written;
for the classes NONE and DBL the whole timing state is unchanged. -/
def Obligations.UpdateFrame : Prop :=
  ∀ (s t : State) (a b : Bool) (now : Nat), exec (.update a b now) s = .next t →
    (∀ j, j ≠ s.cursor → Memory.get t.ring j = Memory.get s.ring j) ∧
    (edgeClass (codeOf s.hist a b) ≠ .ch1 → t.lastEdgeTime0 = s.lastEdgeTime0) ∧
    (edgeClass (codeOf s.hist a b) ≠ .ch2 → t.lastEdgeTime1 = s.lastEdgeTime1) ∧
    (edgeClass (codeOf s.hist a b) = .none ∨ edgeClass (codeOf s.hist a b) = .dbl →
      (∀ j, Memory.get t.ring j = Memory.get s.ring j) ∧ t.cursor = s.cursor ∧ t.unconsumed = s.unconsumed ∧
        t.timeOfLastTick = s.timeOfLastTick) ∧
    t.params = s.params ∧ t.built = s.built ∧ t.poll = s.poll ∧ t.env = s.env ∧ t.rdata = none ∧ t.rate = none

/-- R36: frame of the sixteen decode codes, by class (NONE and DBL, CH1, CH2). That a code has an effect also where
`hist` is not its bits 1..0 is the model's own choice (log entry 9). -/
def Obligations.DecodeCodesFrame : Prop :=
  ∀ (s t : State) (i : Instr) (now : Nat), exec i s = .next t → i.isCode = true →
    (∀ j, j ≠ s.cursor → Memory.get t.ring j = Memory.get s.ring j) ∧
    (i ∈ [Instr.dc0, .dc5, .dc10, .dc15, .dc3, .dc6, .dc9, .dc12] →
      (∀ j, Memory.get t.ring j = Memory.get s.ring j) ∧ t.cursor = s.cursor ∧ t.unconsumed = s.unconsumed ∧
        t.timeOfLastTick = s.timeOfLastTick ∧ t.lastEdgeTime0 = s.lastEdgeTime0 ∧ t.lastEdgeTime1 = s.lastEdgeTime1) ∧
    (i ∈ [Instr.dc1 now, .dc4 now, .dc11 now, .dc14 now] → t.lastEdgeTime1 = s.lastEdgeTime1) ∧
    (i ∈ [Instr.dc2 now, .dc7 now, .dc8 now, .dc13 now] → t.lastEdgeTime0 = s.lastEdgeTime0) ∧
    (i ∈ [Instr.dc0, .dc5, .dc10, .dc15] → s.Inv → t.pos = s.pos) ∧
    t.params = s.params ∧ t.built = s.built ∧ t.poll = s.poll ∧ t.env = s.env ∧ t.rdata = none ∧ t.rate = none

/-- R36, R46: frame of READ. With `poll = 0` it changes no state; with `poll = 1` it leaves what UPDATE leaves, and in
both modes `rdata` is the position left. -/
def Obligations.ReadFrame : Prop :=
  ∀ (s t : State) (a b : Bool) (now : Nat), exec (.read a b now) s = .next t →
    t.rate = none ∧ t.rdata = some t.pos ∧
    (s.poll = false → { t with rdata := s.rdata, rate := s.rate } = s) ∧
    (s.poll = true → exec (.update a b now) s = .next { t with rdata := none })

/-- R36, R138: frame of WRITE, RATE and NOP. They store nothing and leave every element, `pos` apart for WRITE. -/
def Obligations.WriteRateNopFrame : Prop :=
  ∀ (s t : State) (i : Instr) (x : Int) (now : Nat), exec i s = .next t → i ∈ [Instr.write x, .rate now, .nop] →
    (∀ j, Memory.get t.ring j = Memory.get s.ring j) ∧ t.hist = s.hist ∧ t.poll = s.poll ∧ t.cursor = s.cursor ∧
    t.unconsumed = s.unconsumed ∧ t.timeOfLastTick = s.timeOfLastTick ∧ t.lastEdgeTime0 = s.lastEdgeTime0 ∧
    t.lastEdgeTime1 = s.lastEdgeTime1 ∧ t.params = s.params ∧ t.built = s.built ∧ t.env = s.env ∧
    (i ≠ .write x → t.pos = s.pos) ∧ (i ≠ .rate now → t.rate = none) ∧ t.rdata = none

/-! ## Encoding, presentation and the machine's invariant -/

/-- R61, R66, R71: decoding the encoding of a well-formed operation gives it back, at every good parameter set. -/
def Obligations.DecodeOfEncodeIsTheOperation : Prop :=
  ∀ (p : Params) (i : Instr), p.ok = true → i.wf p = true → decode p (encode p i) = .ok i

/-- R61, R66, R71: three decode codes, five commands and one set of ports decode to the operations they stand for. The
codes, the opcodes and the operand values are the spec's; that the operand values stand above the opcode in one number
is the model's own choice (log entry 11, notes/assumptions/11.md: the spec gives separate ports, R60, R65). -/
def Obligations.WordsOfTheSpecDecode : Prop :=
  decodeCode 0b0100#4 400 = .dc4 400 ∧ decodeCode 0b1101#4 350 = .dc13 350 ∧ decodeCode 0b1111#4 7 = .dc15 ∧
  decodeFrame Params.reference 0b000 = .ok .nop ∧
  decodeFrame Params.reference (0b001 + 8 * 0b1100) = .ok (.init false false 3#2) ∧
  decodeFrame Params.reference (0b010 + 8 * (0b10 + 4 * 0x3E8)) = .ok (.update false true 1000) ∧
  decodeFrame Params.reference (0b100 + 8 * 0xFFFFFFF9) = .ok (.write (-7)) ∧
  decodeFrame Params.reference (0b101 + 8 * 0xBB8) = .ok (.rate 3000) ∧
  decodePorts { op := 0b110#3, a := true, b := true, now := 5, wdata := 9, bound := 3#2 } = .reserved6

/-- R67: the values on ports an operation does not read have no effect on the state or on any result. -/
def Obligations.UnreadPortsHaveNoEffect : Prop :=
  ∀ (s : State) (x y : Ports), x.op = y.op →
    (x.op = 1#3 ∨ x.op = 2#3 ∨ (x.op = 3#3 ∧ s.poll = true) → x.a = y.a ∧ x.b = y.b) →
    (x.op = 2#3 ∨ x.op = 5#3 ∨ (x.op = 3#3 ∧ s.poll = true) → x.now = y.now) →
    (x.op = 4#3 → x.wdata = y.wdata) → (x.op = 1#3 → x.bound = y.bound) →
    exec (decodePorts x) s = exec (decodePorts y) s

/-- R48, R164: a step performs the operation presented: the host's when nothing else is ready, NOP when nothing is, and
an edge notification's UPDATE first with the host's operation left for the next step. What stays ready is what was not
presented. -/
def Obligations.StepPerformsThePresentedOperation : Prop :=
  ∀ (s : State) (e : EdgeNotice) (io : Ports) (rest : List Offer) (i : Instr),
    (s.env = { edge := none, host := some io } :: rest → step s = exec (decodePorts io) (s.setEnv rest)) ∧
    (s.env = { edge := some e, host := none } :: rest → step s = exec (.update e.a e.b e.now) (s.setEnv rest)) ∧
    (s.env = { edge := some e, host := some io } :: rest →
      step s = exec (.update e.a e.b e.now) (s.setEnv ({ edge := none, host := some io } :: rest))) ∧
    (s.env = { edge := none, host := none } :: rest → step s = exec .nop (s.setEnv rest)) ∧
    (s.env = [] → step s = exec .nop s) ∧
    (i.isCode = false → step (s.offerHost (portsOf i)) = exec i s)

/-- R164: with an edge notification and a host operation ready together, two steps perform the UPDATE and then the host
operation. -/
def Obligations.EdgeThenHostInTwoSteps : Prop :=
  ∀ (s t : State) (e : EdgeNotice) (io : Ports) (rest : List Offer),
    s.env = { edge := some e, host := some io } :: rest →
    exec (.update e.a e.b e.now) (s.setEnv rest) = .next t →
    Host.Core.run Sys2Proof.core 2 s = exec (decodePorts io) t

/-- R61: the four bits of a decode code, presented as samples against a history that holds its low two bits, perform
that code's transition. -/
def Obligations.PlacedDecodeCodeIsPerformed : Prop :=
  ∀ (s : State) (w : Nat), w < 16 →
    step (s.withFetchWord 4 w) = exec (decodeCode (BitVec.ofNat 4 w) 0) (s.setHist (BitVec.ofNat 2 w))

/-- R35 with R21 to R28, R135, R137: every step keeps the invariant. -/
def Obligations.StepKeepsTheInvariant : Prop := ∀ s t : State, s.Inv → step s = .next t → t.Inv

/-- The reset state meets the invariant and is constructed (log entry 5: the operands of the model's reset INIT are its
own choice). -/
def Obligations.ResetIsLive : Prop := State.reset.Live

/-- R34: the state after reset is what `INIT 0, 0, 0b11` makes of the block before the first INIT (log entry 5: these
operands are the model's own choice). -/
def Obligations.ResetIsInitOfPowerOn : Prop := exec (.init false false 3#2) State.powerOn = .next State.reset
end

