-- ==== Sys2Proof/Laws/Arith.lean ====
section
/-! SUPPORT. The integer operations of R114: what ranges their results lie in and when they give a value back. -/

namespace Sys2Proof

/-- Half the modulus of a signed width (R9). -/
theorem two_pow_split {w : Nat} (hw : 1 ≤ w) : (2 : Int) ^ w = 2 * 2 ^ (w - 1) := by
  obtain ⟨k, rfl⟩ := Nat.exists_eq_add_of_le hw
  simp [pow_add]

theorem natCast_two_pow (w : Nat) : ((2 ^ w : Nat) : Int) = (2 : Int) ^ w := by push_cast; rfl

theorem two_pow_pos (w : Nat) : (0 : Int) < 2 ^ w := by positivity

/-- A wrapped value is in the signed range (R9). -/
theorem wrapS_fits {w : Nat} (hw : 1 ≤ w) (z : Int) : SFits w (wrapS w z) := by
  have hm : 0 < 2 ^ w := Nat.two_pow_pos w
  have lo := Int.le_bmod (x := z) hm
  have hi := Int.bmod_lt (x := z) hm
  have hp := two_pow_split hw
  have hpos := two_pow_pos (w - 1)
  simp only [SFits, wrapS, natCast_two_pow] at *
  omega

/-- A value in the signed range is not changed by wrapping (R9). -/
theorem wrapS_of_fits {w : Nat} (hw : 1 ≤ w) {z : Int} (hz : SFits w z) : wrapS w z = z := by
  have hp := two_pow_split hw
  have hpos := two_pow_pos (w - 1)
  obtain ⟨lo, hi⟩ := hz
  exact Int.bmod_eq_of_le (by rw [natCast_two_pow]; omega) (by rw [natCast_two_pow]; omega)

/-- Wrapping between two additions does not matter (R9: congruent modulo `2^N`). -/
theorem wrapS_add_wrapS (w : Nat) (x y : Int) : wrapS w (wrapS w x + y) = wrapS w (x + y) :=
  Int.bmod_add_bmod

/-- A difference of timestamps is a `uT_W` value (R121). -/
theorem elapsed_fits (w : Nat) (x y : Timestamp) : UFits w (elapsed w x y) := by
  have hm : (0 : Int) < ((2 ^ w : Nat) : Int) := by exact_mod_cast Nat.two_pow_pos w
  have lo := Int.emod_nonneg ((x : Int) - y) hm.ne'
  have hi := Int.emod_lt_of_pos ((x : Int) - y) hm
  unfold UFits elapsed
  omega

/-- A timestamp read from a port is a `uT_W` value (R65). -/
theorem portTime_fits (p : Params) (now : Nat) : UFits p.tW (portTime p now) :=
  Nat.mod_lt _ (Nat.two_pow_pos _)

/-- A timestamp that fits its port is read unchanged (R65). -/
theorem portTime_of_fits {p : Params} {now : Nat} (h : UFits p.tW now) : portTime p now = now :=
  Nat.mod_eq_of_lt h

/-- A bit pattern is below `2^N` (R9). -/
theorem patternOf_lt (w : Nat) (z : Int) : patternOf w z < 2 ^ w := by
  have hm : (0 : Int) < ((2 ^ w : Nat) : Int) := by exact_mod_cast Nat.two_pow_pos w
  have lo := Int.emod_nonneg z hm.ne'
  have hi := Int.emod_lt_of_pos z hm
  unfold patternOf
  omega

/-- The pattern of an `sN` value stands for that value (R9). -/
theorem wrapS_patternOf {w : Nat} (hw : 1 ≤ w) {z : Int} (hz : SFits w z) : wrapS w (patternOf w z) = z := by
  have hm : (0 : Int) < ((2 ^ w : Nat) : Int) := by exact_mod_cast Nat.two_pow_pos w
  have lo := Int.emod_nonneg z hm.ne'
  rw [patternOf, Int.toNat_of_nonneg lo]
  conv_rhs => rw [← wrapS_of_fits hw hz]
  exact Int.emod_bmod ..

/-- What R7 demands, as facts. -/
theorem Params.ok_iff (p : Params) : p.ok = true ↔
    1 ≤ p.c ∧ 1 ≤ p.q ∧ p.q ≤ p.win ∧ p.win % p.q = 0 ∧ 3 ≤ p.posW ∧ 1 ≤ p.tW ∧ p.win < 2 ^ p.tW := by
  simp only [Params.ok, Bool.and_eq_true, decide_eq_true_eq, and_assoc]

/-- The window holds at least one step (R7). -/
theorem Params.n_pos {p : Params} (h : p.ok = true) : 0 < p.n := by
  obtain ⟨-, hq, hw, -⟩ := p.ok_iff.mp h
  exact Nat.div_pos hw hq

/-- A single step moves by one (R83: the delta is +1 or -1 whenever the push procedure runs). -/
theorem delta_of_single {code : BitVec 4} (h : edgeClass code = .ch1 ∨ edgeClass code = .ch2) :
    delta code = 1 ∨ delta code = -1 := by
  revert code; decide

/-- The new history is the pair of samples the code was formed from (R63). -/
theorem newHistory_codeOf (hist : BitVec 2) (a b : Bool) : newHistory (codeOf hist a b) = pairOf a b := by
  revert hist a b; decide

end Sys2Proof
end

