-- ==== Sys2Proof/Laws/Memory.lean ====
section
/-! SUPPORT. The ring memory: a slot written reads back, no other slot changes (20_memory.md R41), every operation
keeps the canonical form, and equal contents are equal data. -/

namespace Sys2Proof.Machine

@[simp] theorem Memory.get_nil (i : Nat) : Memory.get [] i = sentinel := rfl

/-- Below the first listed slot nothing is listed. -/
theorem Memory.get_of_all_above {m : Memory} {i : Nat} (h : ∀ e ∈ m, i < e.1) : Memory.get m i = sentinel := by
  induction m with
  | nil => rfl
  | cons e rest ih =>
    have he := h e (by simp)
    simp only [Memory.get, show i ≠ e.1 by omega, if_false]
    exact ih (fun e' he' => h e' (by simp [he']))

/-- The canonical form, one cell at a time. -/
theorem Memory.wf_cons {i : Nat} {v : Interval} {rest : Memory} :
    Memory.wf ((i, v) :: rest) = true ↔ v ≠ sentinel ∧ (∀ e ∈ rest, i < e.1) ∧ Memory.wf rest = true := by
  simp [Memory.wf, and_assoc]

/-- A cell of the memory after a write is the written one or one of before. -/
theorem Memory.mem_put {m : Memory} {i : Nat} {v : Interval} {e : Nat × Interval} (h : e ∈ Memory.put m i v) :
    e.1 = i ∨ e ∈ m := by
  induction m with
  | nil => simp only [Memory.put] at h; split at h <;> simp_all
  | cons c rest ih =>
    obtain ⟨j, u⟩ := c
    simp only [Memory.put] at h
    split at h
    · split at h <;> simp_all
      rcases h with h | h | h <;> simp_all
    · split at h
      · split at h <;> simp_all
        rcases h with h | h <;> simp_all
      · rcases List.mem_cons.mp h with h | h
        · simp [h]
        · rcases ih h with h | h <;> simp [h]

/-- A slot written reads back the value written (R41). -/
theorem Memory.get_put_same {m : Memory} (hm : Memory.wf m = true) (i : Nat) (v : Interval) :
    Memory.get (Memory.put m i v) i = v := by
  induction m with
  | nil => by_cases h : v = sentinel <;> simp [Memory.put, Memory.get, h]
  | cons c rest ih =>
    obtain ⟨j, u⟩ := c
    obtain ⟨-, above, wf⟩ := Memory.wf_cons.mp hm
    simp only [Memory.put]
    split
    · rename_i hlt
      split
      · rename_i hv
        simp only [Memory.get, show i ≠ j by omega, if_false, hv]
        exact Memory.get_of_all_above (fun e he => by have := above e he; omega)
      · simp [Memory.get]
    · split
      · rename_i heq
        split
        · rename_i hv
          rw [hv]
          exact Memory.get_of_all_above (fun e he => by have := above e he; omega)
        · simp [Memory.get]
      · rename_i hne
        simp only [Memory.get, hne, if_false]
        exact ih wf

/-- A write changes no other slot (R41). -/
theorem Memory.get_put_other {m : Memory} {i j : Nat} (hij : j ≠ i) (v : Interval) :
    Memory.get (Memory.put m i v) j = Memory.get m j := by
  induction m with
  | nil => by_cases h : v = sentinel <;> simp [Memory.put, Memory.get, h, hij]
  | cons c rest ih =>
    obtain ⟨k, u⟩ := c
    simp only [Memory.put]
    split
    · split <;> simp [Memory.get, hij]
    · split
      · rename_i heq
        subst heq
        split <;> simp [Memory.get, hij]
      · simp only [Memory.get, ih]

/-- A write keeps the canonical form. -/
theorem Memory.put_wf {m : Memory} (hm : Memory.wf m = true) (i : Nat) (v : Interval) :
    Memory.wf (Memory.put m i v) = true := by
  induction m with
  | nil => by_cases h : v = sentinel <;> simp [Memory.put, Memory.wf, h]
  | cons c rest ih =>
    obtain ⟨j, u⟩ := c
    obtain ⟨hu, above, wf⟩ := Memory.wf_cons.mp hm
    simp only [Memory.put]
    split
    · rename_i hlt
      split
      · exact hm
      · rename_i hv
        refine Memory.wf_cons.mpr ⟨hv, fun e he => ?_, hm⟩
        rcases List.mem_cons.mp he with rfl | he
        · exact hlt
        · have := above e he; omega
    · split
      · rename_i heq
        split
        · exact wf
        · rename_i hv
          exact Memory.wf_cons.mpr ⟨hv, fun e he => by have := above e he; omega, wf⟩
      · refine Memory.wf_cons.mpr ⟨hu, fun e he => ?_, ih wf⟩
        rcases Memory.mem_put he with h | h
        · omega
        · exact above e h

/-- Two memories in canonical form with the same value in every slot are the same data. -/
theorem Memory.ext_get {m n : Memory} (hm : Memory.wf m = true) (hn : Memory.wf n = true)
    (h : ∀ i, Memory.get m i = Memory.get n i) : m = n := by
  induction m generalizing n with
  | nil =>
    cases n with
    | nil => rfl
    | cons c rest =>
      obtain ⟨j, u⟩ := c
      exact absurd (by simpa [Memory.get] using (h j).symm) (Memory.wf_cons.mp hn).1
  | cons c rest ih =>
    obtain ⟨j, u⟩ := c
    obtain ⟨hu, above, wf⟩ := Memory.wf_cons.mp hm
    cases n with
    | nil => exact absurd (by simpa [Memory.get] using h j) hu
    | cons c' rest' =>
      obtain ⟨k, v⟩ := c'
      obtain ⟨hv, above', wf'⟩ := Memory.wf_cons.mp hn
      have hjk : j = k := by
        rcases Nat.lt_trichotomy j k with hlt | heq | hgt
        · have := h j
          rw [Memory.get_of_all_above (m := (k, v) :: rest') (fun e he => by
            rcases List.mem_cons.mp he with rfl | he
            · exact hlt
            · have := above' e he; omega)] at this
          exact absurd (by simpa [Memory.get] using this) hu
        · exact heq
        · have := h k
          rw [Memory.get_of_all_above (m := (j, u) :: rest) (fun e he => by
            rcases List.mem_cons.mp he with rfl | he
            · exact hgt
            · have := above e he; omega)] at this
          exact absurd (by simpa [Memory.get] using this.symm) hv
      subst hjk
      have huv : u = v := by simpa [Memory.get] using h j
      subst huv
      refine congrArg _ (ih wf wf' fun i => ?_)
      by_cases hij : i = j
      · subst hij
        rw [Memory.get_of_all_above above, Memory.get_of_all_above above']
      · simpa [Memory.get, hij] using h i

/-- The ring right after reset lists nothing and is in canonical form. -/
theorem reset_ring_wf : Memory.wf State.reset.ring = true := rfl

/-- Writing `SENTINEL` to every slot, as the loop of R150 does, leaves nothing listed: the empty list of `construct`. -/
theorem Memory.eq_nil_of_get_sentinel {m : Memory} (hm : Memory.wf m = true) (h : ∀ i, Memory.get m i = sentinel) :
    m = [] :=
  Memory.ext_get hm rfl (by simpa using h)

end Sys2Proof.Machine
end

