-- ==== Sys2Proof/Laws/State.lean ====
section
/-! SUPPORT. What each named update of the state does to each field: one lemma per field, true by definition. -/

namespace Sys2Proof.Machine

variable (s : State)

@[simp] theorem State.setPos_params (z : Position) : (s.setPos z).params = s.params := rfl
@[simp] theorem State.setPos_built (z : Position) : (s.setPos z).built = s.built := rfl
@[simp] theorem State.setPos_hist (z : Position) : (s.setPos z).hist = s.hist := rfl
@[simp] theorem State.setPos_pos (z : Position) : (s.setPos z).pos = z := rfl
@[simp] theorem State.setPos_poll (z : Position) : (s.setPos z).poll = s.poll := rfl
@[simp] theorem State.setPos_cursor (z : Position) : (s.setPos z).cursor = s.cursor := rfl
@[simp] theorem State.setPos_unconsumed (z : Position) : (s.setPos z).unconsumed = s.unconsumed := rfl
@[simp] theorem State.setPos_timeOfLastTick (z : Position) : (s.setPos z).timeOfLastTick = s.timeOfLastTick := rfl
@[simp] theorem State.setPos_lastEdgeTime0 (z : Position) : (s.setPos z).lastEdgeTime0 = s.lastEdgeTime0 := rfl
@[simp] theorem State.setPos_lastEdgeTime1 (z : Position) : (s.setPos z).lastEdgeTime1 = s.lastEdgeTime1 := rfl
@[simp] theorem State.setPos_ring (z : Position) : (s.setPos z).ring = s.ring := rfl
@[simp] theorem State.setPos_rdata (z : Position) : (s.setPos z).rdata = s.rdata := rfl
@[simp] theorem State.setPos_rate (z : Position) : (s.setPos z).rate = s.rate := rfl
@[simp] theorem State.setPos_env (z : Position) : (s.setPos z).env = s.env := rfl

@[simp] theorem State.setHist_params (h : BitVec 2) : (s.setHist h).params = s.params := rfl
@[simp] theorem State.setHist_built (h : BitVec 2) : (s.setHist h).built = s.built := rfl
@[simp] theorem State.setHist_hist (h : BitVec 2) : (s.setHist h).hist = h := rfl
@[simp] theorem State.setHist_pos (h : BitVec 2) : (s.setHist h).pos = s.pos := rfl
@[simp] theorem State.setHist_poll (h : BitVec 2) : (s.setHist h).poll = s.poll := rfl
@[simp] theorem State.setHist_cursor (h : BitVec 2) : (s.setHist h).cursor = s.cursor := rfl
@[simp] theorem State.setHist_unconsumed (h : BitVec 2) : (s.setHist h).unconsumed = s.unconsumed := rfl
@[simp] theorem State.setHist_timeOfLastTick (h : BitVec 2) : (s.setHist h).timeOfLastTick = s.timeOfLastTick := rfl
@[simp] theorem State.setHist_lastEdgeTime0 (h : BitVec 2) : (s.setHist h).lastEdgeTime0 = s.lastEdgeTime0 := rfl
@[simp] theorem State.setHist_lastEdgeTime1 (h : BitVec 2) : (s.setHist h).lastEdgeTime1 = s.lastEdgeTime1 := rfl
@[simp] theorem State.setHist_ring (h : BitVec 2) : (s.setHist h).ring = s.ring := rfl
@[simp] theorem State.setHist_rdata (h : BitVec 2) : (s.setHist h).rdata = s.rdata := rfl
@[simp] theorem State.setHist_rate (h : BitVec 2) : (s.setHist h).rate = s.rate := rfl
@[simp] theorem State.setHist_env (h : BitVec 2) : (s.setHist h).env = s.env := rfl

@[simp] theorem State.setRdata_params (z : Position) : (s.setRdata z).params = s.params := rfl
@[simp] theorem State.setRdata_built (z : Position) : (s.setRdata z).built = s.built := rfl
@[simp] theorem State.setRdata_hist (z : Position) : (s.setRdata z).hist = s.hist := rfl
@[simp] theorem State.setRdata_pos (z : Position) : (s.setRdata z).pos = s.pos := rfl
@[simp] theorem State.setRdata_poll (z : Position) : (s.setRdata z).poll = s.poll := rfl
@[simp] theorem State.setRdata_cursor (z : Position) : (s.setRdata z).cursor = s.cursor := rfl
@[simp] theorem State.setRdata_unconsumed (z : Position) : (s.setRdata z).unconsumed = s.unconsumed := rfl
@[simp] theorem State.setRdata_timeOfLastTick (z : Position) : (s.setRdata z).timeOfLastTick = s.timeOfLastTick := rfl
@[simp] theorem State.setRdata_lastEdgeTime0 (z : Position) : (s.setRdata z).lastEdgeTime0 = s.lastEdgeTime0 := rfl
@[simp] theorem State.setRdata_lastEdgeTime1 (z : Position) : (s.setRdata z).lastEdgeTime1 = s.lastEdgeTime1 := rfl
@[simp] theorem State.setRdata_ring (z : Position) : (s.setRdata z).ring = s.ring := rfl
@[simp] theorem State.setRdata_rdata (z : Position) : (s.setRdata z).rdata = some z := rfl
@[simp] theorem State.setRdata_rate (z : Position) : (s.setRdata z).rate = s.rate := rfl
@[simp] theorem State.setRdata_env (z : Position) : (s.setRdata z).env = s.env := rfl

@[simp] theorem State.setRate_params (r : RateResult) : (s.setRate r).params = s.params := rfl
@[simp] theorem State.setRate_built (r : RateResult) : (s.setRate r).built = s.built := rfl
@[simp] theorem State.setRate_hist (r : RateResult) : (s.setRate r).hist = s.hist := rfl
@[simp] theorem State.setRate_pos (r : RateResult) : (s.setRate r).pos = s.pos := rfl
@[simp] theorem State.setRate_poll (r : RateResult) : (s.setRate r).poll = s.poll := rfl
@[simp] theorem State.setRate_cursor (r : RateResult) : (s.setRate r).cursor = s.cursor := rfl
@[simp] theorem State.setRate_unconsumed (r : RateResult) : (s.setRate r).unconsumed = s.unconsumed := rfl
@[simp] theorem State.setRate_timeOfLastTick (r : RateResult) : (s.setRate r).timeOfLastTick = s.timeOfLastTick := rfl
@[simp] theorem State.setRate_lastEdgeTime0 (r : RateResult) : (s.setRate r).lastEdgeTime0 = s.lastEdgeTime0 := rfl
@[simp] theorem State.setRate_lastEdgeTime1 (r : RateResult) : (s.setRate r).lastEdgeTime1 = s.lastEdgeTime1 := rfl
@[simp] theorem State.setRate_ring (r : RateResult) : (s.setRate r).ring = s.ring := rfl
@[simp] theorem State.setRate_rdata (r : RateResult) : (s.setRate r).rdata = s.rdata := rfl
@[simp] theorem State.setRate_rate (r : RateResult) : (s.setRate r).rate = some r := rfl
@[simp] theorem State.setRate_env (r : RateResult) : (s.setRate r).env = s.env := rfl

@[simp] theorem State.quiet_params : (s.quiet).params = s.params := rfl
@[simp] theorem State.quiet_built : (s.quiet).built = s.built := rfl
@[simp] theorem State.quiet_hist : (s.quiet).hist = s.hist := rfl
@[simp] theorem State.quiet_pos : (s.quiet).pos = s.pos := rfl
@[simp] theorem State.quiet_poll : (s.quiet).poll = s.poll := rfl
@[simp] theorem State.quiet_cursor : (s.quiet).cursor = s.cursor := rfl
@[simp] theorem State.quiet_unconsumed : (s.quiet).unconsumed = s.unconsumed := rfl
@[simp] theorem State.quiet_timeOfLastTick : (s.quiet).timeOfLastTick = s.timeOfLastTick := rfl
@[simp] theorem State.quiet_lastEdgeTime0 : (s.quiet).lastEdgeTime0 = s.lastEdgeTime0 := rfl
@[simp] theorem State.quiet_lastEdgeTime1 : (s.quiet).lastEdgeTime1 = s.lastEdgeTime1 := rfl
@[simp] theorem State.quiet_ring : (s.quiet).ring = s.ring := rfl
@[simp] theorem State.quiet_rdata : (s.quiet).rdata = none := rfl
@[simp] theorem State.quiet_rate : (s.quiet).rate = none := rfl
@[simp] theorem State.quiet_env : (s.quiet).env = s.env := rfl

@[simp] theorem State.setEnv_params (e : List Offer) : (s.setEnv e).params = s.params := rfl
@[simp] theorem State.setEnv_built (e : List Offer) : (s.setEnv e).built = s.built := rfl
@[simp] theorem State.setEnv_hist (e : List Offer) : (s.setEnv e).hist = s.hist := rfl
@[simp] theorem State.setEnv_pos (e : List Offer) : (s.setEnv e).pos = s.pos := rfl
@[simp] theorem State.setEnv_poll (e : List Offer) : (s.setEnv e).poll = s.poll := rfl
@[simp] theorem State.setEnv_cursor (e : List Offer) : (s.setEnv e).cursor = s.cursor := rfl
@[simp] theorem State.setEnv_unconsumed (e : List Offer) : (s.setEnv e).unconsumed = s.unconsumed := rfl
@[simp] theorem State.setEnv_timeOfLastTick (e : List Offer) : (s.setEnv e).timeOfLastTick = s.timeOfLastTick := rfl
@[simp] theorem State.setEnv_lastEdgeTime0 (e : List Offer) : (s.setEnv e).lastEdgeTime0 = s.lastEdgeTime0 := rfl
@[simp] theorem State.setEnv_lastEdgeTime1 (e : List Offer) : (s.setEnv e).lastEdgeTime1 = s.lastEdgeTime1 := rfl
@[simp] theorem State.setEnv_ring (e : List Offer) : (s.setEnv e).ring = s.ring := rfl
@[simp] theorem State.setEnv_rdata (e : List Offer) : (s.setEnv e).rdata = s.rdata := rfl
@[simp] theorem State.setEnv_rate (e : List Offer) : (s.setEnv e).rate = s.rate := rfl
@[simp] theorem State.setEnv_env (e : List Offer) : (s.setEnv e).env = e := rfl

@[simp] theorem State.addDelta_params (d : Int) : (s.addDelta d).params = s.params := rfl
@[simp] theorem State.addDelta_built (d : Int) : (s.addDelta d).built = s.built := rfl
@[simp] theorem State.addDelta_hist (d : Int) : (s.addDelta d).hist = s.hist := rfl
@[simp] theorem State.addDelta_pos (d : Int) : (s.addDelta d).pos = wrapS s.params.posW (s.pos + d) := rfl
@[simp] theorem State.addDelta_poll (d : Int) : (s.addDelta d).poll = s.poll := rfl
@[simp] theorem State.addDelta_cursor (d : Int) : (s.addDelta d).cursor = s.cursor := rfl
@[simp] theorem State.addDelta_unconsumed (d : Int) : (s.addDelta d).unconsumed = s.unconsumed := rfl
@[simp] theorem State.addDelta_timeOfLastTick (d : Int) : (s.addDelta d).timeOfLastTick = s.timeOfLastTick := rfl
@[simp] theorem State.addDelta_lastEdgeTime0 (d : Int) : (s.addDelta d).lastEdgeTime0 = s.lastEdgeTime0 := rfl
@[simp] theorem State.addDelta_lastEdgeTime1 (d : Int) : (s.addDelta d).lastEdgeTime1 = s.lastEdgeTime1 := rfl
@[simp] theorem State.addDelta_ring (d : Int) : (s.addDelta d).ring = s.ring := rfl
@[simp] theorem State.addDelta_rdata (d : Int) : (s.addDelta d).rdata = s.rdata := rfl
@[simp] theorem State.addDelta_rate (d : Int) : (s.addDelta d).rate = s.rate := rfl
@[simp] theorem State.addDelta_env (d : Int) : (s.addDelta d).env = s.env := rfl

@[simp] theorem State.setLastEdgeTime_ch1_params (t : Timestamp) : (s.setLastEdgeTime .ch1 t).params = s.params := rfl
@[simp] theorem State.setLastEdgeTime_ch1_built (t : Timestamp) : (s.setLastEdgeTime .ch1 t).built = s.built := rfl
@[simp] theorem State.setLastEdgeTime_ch1_hist (t : Timestamp) : (s.setLastEdgeTime .ch1 t).hist = s.hist := rfl
@[simp] theorem State.setLastEdgeTime_ch1_pos (t : Timestamp) : (s.setLastEdgeTime .ch1 t).pos = s.pos := rfl
@[simp] theorem State.setLastEdgeTime_ch1_poll (t : Timestamp) : (s.setLastEdgeTime .ch1 t).poll = s.poll := rfl
@[simp] theorem State.setLastEdgeTime_ch1_cursor (t : Timestamp) : (s.setLastEdgeTime .ch1 t).cursor = s.cursor := rfl
@[simp] theorem State.setLastEdgeTime_ch1_unconsumed (t : Timestamp) : (s.setLastEdgeTime .ch1 t).unconsumed = s.unconsumed := rfl
@[simp] theorem State.setLastEdgeTime_ch1_timeOfLastTick (t : Timestamp) : (s.setLastEdgeTime .ch1 t).timeOfLastTick = s.timeOfLastTick := rfl
@[simp] theorem State.setLastEdgeTime_ch1_lastEdgeTime0 (t : Timestamp) : (s.setLastEdgeTime .ch1 t).lastEdgeTime0 = t := rfl
@[simp] theorem State.setLastEdgeTime_ch1_lastEdgeTime1 (t : Timestamp) : (s.setLastEdgeTime .ch1 t).lastEdgeTime1 = s.lastEdgeTime1 := rfl
@[simp] theorem State.setLastEdgeTime_ch1_ring (t : Timestamp) : (s.setLastEdgeTime .ch1 t).ring = s.ring := rfl
@[simp] theorem State.setLastEdgeTime_ch1_rdata (t : Timestamp) : (s.setLastEdgeTime .ch1 t).rdata = s.rdata := rfl
@[simp] theorem State.setLastEdgeTime_ch1_rate (t : Timestamp) : (s.setLastEdgeTime .ch1 t).rate = s.rate := rfl
@[simp] theorem State.setLastEdgeTime_ch1_env (t : Timestamp) : (s.setLastEdgeTime .ch1 t).env = s.env := rfl

@[simp] theorem State.setLastEdgeTime_ch2_params (t : Timestamp) : (s.setLastEdgeTime .ch2 t).params = s.params := rfl
@[simp] theorem State.setLastEdgeTime_ch2_built (t : Timestamp) : (s.setLastEdgeTime .ch2 t).built = s.built := rfl
@[simp] theorem State.setLastEdgeTime_ch2_hist (t : Timestamp) : (s.setLastEdgeTime .ch2 t).hist = s.hist := rfl
@[simp] theorem State.setLastEdgeTime_ch2_pos (t : Timestamp) : (s.setLastEdgeTime .ch2 t).pos = s.pos := rfl
@[simp] theorem State.setLastEdgeTime_ch2_poll (t : Timestamp) : (s.setLastEdgeTime .ch2 t).poll = s.poll := rfl
@[simp] theorem State.setLastEdgeTime_ch2_cursor (t : Timestamp) : (s.setLastEdgeTime .ch2 t).cursor = s.cursor := rfl
@[simp] theorem State.setLastEdgeTime_ch2_unconsumed (t : Timestamp) : (s.setLastEdgeTime .ch2 t).unconsumed = s.unconsumed := rfl
@[simp] theorem State.setLastEdgeTime_ch2_timeOfLastTick (t : Timestamp) : (s.setLastEdgeTime .ch2 t).timeOfLastTick = s.timeOfLastTick := rfl
@[simp] theorem State.setLastEdgeTime_ch2_lastEdgeTime0 (t : Timestamp) : (s.setLastEdgeTime .ch2 t).lastEdgeTime0 = s.lastEdgeTime0 := rfl
@[simp] theorem State.setLastEdgeTime_ch2_lastEdgeTime1 (t : Timestamp) : (s.setLastEdgeTime .ch2 t).lastEdgeTime1 = t := rfl
@[simp] theorem State.setLastEdgeTime_ch2_ring (t : Timestamp) : (s.setLastEdgeTime .ch2 t).ring = s.ring := rfl
@[simp] theorem State.setLastEdgeTime_ch2_rdata (t : Timestamp) : (s.setLastEdgeTime .ch2 t).rdata = s.rdata := rfl
@[simp] theorem State.setLastEdgeTime_ch2_rate (t : Timestamp) : (s.setLastEdgeTime .ch2 t).rate = s.rate := rfl
@[simp] theorem State.setLastEdgeTime_ch2_env (t : Timestamp) : (s.setLastEdgeTime .ch2 t).env = s.env := rfl

@[simp] theorem State.tick_ch1_params (t : Timestamp) : (s.tick .ch1 t).params = s.params := rfl
@[simp] theorem State.tick_ch1_built (t : Timestamp) : (s.tick .ch1 t).built = s.built := rfl
@[simp] theorem State.tick_ch1_hist (t : Timestamp) : (s.tick .ch1 t).hist = s.hist := rfl
@[simp] theorem State.tick_ch1_pos (t : Timestamp) : (s.tick .ch1 t).pos = s.pos := rfl
@[simp] theorem State.tick_ch1_poll (t : Timestamp) : (s.tick .ch1 t).poll = s.poll := rfl
@[simp] theorem State.tick_ch1_cursor (t : Timestamp) : (s.tick .ch1 t).cursor = (s.cursor + 1) % s.params.c := rfl
@[simp] theorem State.tick_ch1_unconsumed (t : Timestamp) : (s.tick .ch1 t).unconsumed = min (s.unconsumed + 1) s.params.c := rfl
@[simp] theorem State.tick_ch1_timeOfLastTick (t : Timestamp) : (s.tick .ch1 t).timeOfLastTick = t := rfl
@[simp] theorem State.tick_ch1_lastEdgeTime0 (t : Timestamp) : (s.tick .ch1 t).lastEdgeTime0 = t := rfl
@[simp] theorem State.tick_ch1_lastEdgeTime1 (t : Timestamp) : (s.tick .ch1 t).lastEdgeTime1 = s.lastEdgeTime1 := rfl
@[simp] theorem State.tick_ch1_ring (t : Timestamp) : (s.tick .ch1 t).ring = s.ring := rfl
@[simp] theorem State.tick_ch1_rdata (t : Timestamp) : (s.tick .ch1 t).rdata = s.rdata := rfl
@[simp] theorem State.tick_ch1_rate (t : Timestamp) : (s.tick .ch1 t).rate = s.rate := rfl
@[simp] theorem State.tick_ch1_env (t : Timestamp) : (s.tick .ch1 t).env = s.env := rfl

@[simp] theorem State.tick_ch2_params (t : Timestamp) : (s.tick .ch2 t).params = s.params := rfl
@[simp] theorem State.tick_ch2_built (t : Timestamp) : (s.tick .ch2 t).built = s.built := rfl
@[simp] theorem State.tick_ch2_hist (t : Timestamp) : (s.tick .ch2 t).hist = s.hist := rfl
@[simp] theorem State.tick_ch2_pos (t : Timestamp) : (s.tick .ch2 t).pos = s.pos := rfl
@[simp] theorem State.tick_ch2_poll (t : Timestamp) : (s.tick .ch2 t).poll = s.poll := rfl
@[simp] theorem State.tick_ch2_cursor (t : Timestamp) : (s.tick .ch2 t).cursor = (s.cursor + 1) % s.params.c := rfl
@[simp] theorem State.tick_ch2_unconsumed (t : Timestamp) : (s.tick .ch2 t).unconsumed = min (s.unconsumed + 1) s.params.c := rfl
@[simp] theorem State.tick_ch2_timeOfLastTick (t : Timestamp) : (s.tick .ch2 t).timeOfLastTick = t := rfl
@[simp] theorem State.tick_ch2_lastEdgeTime0 (t : Timestamp) : (s.tick .ch2 t).lastEdgeTime0 = s.lastEdgeTime0 := rfl
@[simp] theorem State.tick_ch2_lastEdgeTime1 (t : Timestamp) : (s.tick .ch2 t).lastEdgeTime1 = t := rfl
@[simp] theorem State.tick_ch2_ring (t : Timestamp) : (s.tick .ch2 t).ring = s.ring := rfl
@[simp] theorem State.tick_ch2_rdata (t : Timestamp) : (s.tick .ch2 t).rdata = s.rdata := rfl
@[simp] theorem State.tick_ch2_rate (t : Timestamp) : (s.tick .ch2 t).rate = s.rate := rfl
@[simp] theorem State.tick_ch2_env (t : Timestamp) : (s.tick .ch2 t).env = s.env := rfl

@[simp] theorem State.lastEdgeTime_ch1 : s.lastEdgeTime .ch1 = s.lastEdgeTime0 := rfl
@[simp] theorem State.lastEdgeTime_ch2 : s.lastEdgeTime .ch2 = s.lastEdgeTime1 := rfl

end Sys2Proof.Machine
end

