-- ==== Sys2Proof/Laws/Ops.lean ====
section
/-! SUPPORT. What each shared operation can do, said once: the ring accesses, the push procedure, the timing record, a
decode pass, the walk of RATE, and what every operation does around its effect. -/

namespace Sys2Proof.Machine

variable {s t : State}

theorem loadIndex_lt (hc : 1 ≤ s.params.c) (k : Nat) : loadIndex s k < s.params.c := Nat.mod_lt _ hc

theorem memRead_of_lt {i : Nat} (h : i < s.params.c) : memRead s i = .ok (Memory.get s.ring i) := by
  simp [memRead, h]

theorem memWrite_of_lt {i : Nat} (h : i < s.params.c) (v : Interval) :
    memWrite s i v = .ok { s with ring := Memory.put s.ring i v } := by
  simp [memWrite, h]

/-- A push with the cursor in range: the interval goes to slot `cursor`, then the registers tick (R120). -/
theorem pushEdge_of_lt (h : s.cursor < s.params.c) (ch : Channel) (now : Timestamp) (d : Int) :
    pushEdge s ch now d =
      .ok (State.tick { s with ring := Memory.put s.ring s.cursor (intervalOf s ch now d) } ch now) := by
  simp [pushEdge, memWrite_of_lt h]

/-- A pass whose class records nothing: position and history only (R83). -/
theorem decodePass_of_no_record {code : BitVec 4} (h : edgeClass code = .none ∨ edgeClass code = .dbl) (now : Nat) :
    decodePass code now s = .ok ((s.addDelta (delta code)).setHist (newHistory code)) := by
  rcases h with h | h <;> simp [decodePass, record, h]

/-- A pass that records an edge of channel 1 (R83). -/
theorem decodePass_of_ch1 {code : BitVec 4} (h : edgeClass code = .ch1) (hc : s.cursor < s.params.c) (now : Nat) :
    decodePass code now s =
      .ok ((State.tick { s.addDelta (delta code) with
        ring := Memory.put s.ring s.cursor (intervalOf s .ch1 (portTime s.params now) (delta code)) } .ch1
          (portTime s.params now)).setHist (newHistory code)) := by
  simp only [decodePass, record, h]
  rw [pushEdge_of_lt (by simpa using hc)]
  rfl

/-- A pass that records an edge of channel 2 (R83). -/
theorem decodePass_of_ch2 {code : BitVec 4} (h : edgeClass code = .ch2) (hc : s.cursor < s.params.c) (now : Nat) :
    decodePass code now s =
      .ok ((State.tick { s.addDelta (delta code) with
        ring := Memory.put s.ring s.cursor (intervalOf s .ch2 (portTime s.params now) (delta code)) } .ch2
          (portTime s.params now)).setHist (newHistory code)) := by
  simp only [decodePass, record, h]
  rw [pushEdge_of_lt (by simpa using hc)]
  rfl

/-- An operation in a constructed block with a good parameter set is its effect (R12). -/
theorem operate_of_built (hp : s.params.ok = true) (hb : s.built = true) (effect : State → Except Fault State) :
    operate s effect = finish (effect s.quiet) := by
  simp [operate, hp, hb]

/-- When an operation answers a next state: the parameters are good, the block is constructed, and the effect gave that
state. -/
theorem operate_next {effect : State → Except Fault State} (h : operate s effect = .next t) :
    s.params.ok = true ∧ s.built = true ∧ effect s.quiet = .ok t := by
  unfold operate at h
  split at h
  · split at h
    · unfold finish at h
      split at h
      · simp_all
      · simp_all
    · simp_all
  · simp_all

/-- The walk never leaves the ring: it answers (R133). -/
theorem rateWalk_ok (hc : 1 ≤ s.params.c) (left k : Nat) (w : Walk) : ∃ w', rateWalk s left k w = .ok w' := by
  induction left generalizing k w with
  | zero => exact ⟨w, rfl⟩
  | succ left ih =>
    simp only [rateWalk, memRead_of_lt (loadIndex_lt hc k)]
    split
    · exact ⟨_, rfl⟩
    · exact ih _ _

/-- RATE always has a value to return (R134: no division by zero arises). -/
theorem exactRate_ok (hc : 1 ≤ s.params.c) (now : Timestamp) : ∃ q, exactRate s now = .ok q := by
  obtain ⟨w, hw⟩ := rateWalk_ok (s := s) hc s.unconsumed 0 { acc := 0, cum := 0, visited := 0 }
  unfold exactRate
  split
  · exact ⟨_, rfl⟩
  · split
    · exact ⟨_, rfl⟩
    · exact ⟨w.acc / s.params.n, by rw [fullWalk, hw]⟩

/-- RATE reads the parameters, the ring, `cursor`, `unconsumed` and `timeOfLastTick`, and nothing else (R36). -/
theorem rateWalk_congr (hp : s.params = t.params) (hr : s.ring = t.ring) (hc : s.cursor = t.cursor)
    (left k : Nat) (w : Walk) : rateWalk s left k w = rateWalk t left k w := by
  induction left generalizing k w with
  | zero => rfl
  | succ left ih =>
    have hread : memRead s (loadIndex s k) = memRead t (loadIndex t k) := by
      unfold memRead loadIndex; rw [hp, hr, hc]
    unfold rateWalk
    rw [hread, hp]
    simp only [ih]

theorem exactRate_congr (hp : s.params = t.params) (hr : s.ring = t.ring) (hc : s.cursor = t.cursor)
    (hu : s.unconsumed = t.unconsumed) (ht : s.timeOfLastTick = t.timeOfLastTick) (now : Timestamp) :
    exactRate s now = exactRate t now := by
  have hwalk : fullWalk s = fullWalk t := by unfold fullWalk; rw [hu, rateWalk_congr hp hr hc]
  unfold exactRate stalled
  rw [hwalk, hu, ht, hp]

end Sys2Proof.Machine
end

