-- ==== Sys2Proof/Laws/PerInstr.lean ====
section
/-! SUPPORT. Per-instruction statements: the encoding of a well-formed operation sets no bit above its last operand
(30_encoding.md R60, R65, R66). -/

namespace Sys2Proof.Laws.EncodingFits

/-- The family: at every parameter set that keeps R7, the encoding of the operation, when its operands fit their ports,
has no bit above the operation's length. -/
def Statement (i : Instr) : Prop :=
  ∀ p : Params, p.ok = true → i.wf p = true → (encode p i).fits p = true

/-- An operation number in range, with operands that fit, makes a number that fits. -/
theorem frameOf_fits {p : Params} {op operands : Nat} (hop : op < 8) (h : operands < 2 ^ operandBits p op) :
    (Encoded.frame (frameOf op operands)).fits p = true := by
  have hm : frameOf op operands % 8 = op := by unfold frameOf; omega
  simp only [Encoded.fits, decide_eq_true_eq, hm, Nat.pow_add]
  unfold frameOf
  omega

/-- Two samples and a value of `w` bits above them take `2 + w` bits. -/
theorem samplesThen_lt {w above : Nat} (a b : Bool) (h : above < 2 ^ w) : samplesThen a b above < 2 ^ (2 + w) := by
  have : samplesThen a b above < 4 * 2 ^ w := by
    unfold samplesThen numOf
    cases a <;> cases b <;> simp <;> omega
  simpa [Nat.pow_add] using this

theorem dc0 : Statement .dc0 := fun _ _ _ => rfl
theorem dc1 (now : Timestamp) : Statement (.dc1 now) := fun _ _ _ => rfl
theorem dc2 (now : Timestamp) : Statement (.dc2 now) := fun _ _ _ => rfl
theorem dc3 : Statement .dc3 := fun _ _ _ => rfl
theorem dc4 (now : Timestamp) : Statement (.dc4 now) := fun _ _ _ => rfl
theorem dc5 : Statement .dc5 := fun _ _ _ => rfl
theorem dc6 : Statement .dc6 := fun _ _ _ => rfl
theorem dc7 (now : Timestamp) : Statement (.dc7 now) := fun _ _ _ => rfl
theorem dc8 (now : Timestamp) : Statement (.dc8 now) := fun _ _ _ => rfl
theorem dc9 : Statement .dc9 := fun _ _ _ => rfl
theorem dc10 : Statement .dc10 := fun _ _ _ => rfl
theorem dc11 (now : Timestamp) : Statement (.dc11 now) := fun _ _ _ => rfl
theorem dc12 : Statement .dc12 := fun _ _ _ => rfl
theorem dc13 (now : Timestamp) : Statement (.dc13 now) := fun _ _ _ => rfl
theorem dc14 (now : Timestamp) : Statement (.dc14 now) := fun _ _ _ => rfl
theorem dc15 : Statement .dc15 := fun _ _ _ => rfl

theorem nop : Statement .nop := fun _ _ _ => frameOf_fits (by decide) (by simp [operandBits])

theorem init (a b : Bool) (bound : BitVec 2) : Statement (.init a b bound) := fun _ _ _ =>
  frameOf_fits (by decide) (samplesThen_lt (w := 2) a b bound.isLt)

theorem update (a b : Bool) (now : Timestamp) : Statement (.update a b now) := fun _ _ h =>
  frameOf_fits (by decide) (samplesThen_lt a b (of_decide_eq_true h))

theorem read (a b : Bool) (now : Timestamp) : Statement (.read a b now) := fun _ _ h =>
  frameOf_fits (by decide) (samplesThen_lt a b (of_decide_eq_true h))

theorem write (wdata : Position) : Statement (.write wdata) := fun p _ _ =>
  frameOf_fits (by decide) (patternOf_lt p.posW wdata)

theorem rate (now : Timestamp) : Statement (.rate now) := fun _ _ h =>
  frameOf_fits (by decide) (of_decide_eq_true h)

theorem reserved6 : Statement .reserved6 := fun _ _ _ => frameOf_fits (by decide) (by simp [operandBits])

theorem reserved7 : Statement .reserved7 := fun _ _ _ => frameOf_fits (by decide) (by simp [operandBits])

end Sys2Proof.Laws.EncodingFits
end

