-- ==== Sys2Proof/Tests/Slice0.lean ====
section
/-! SUPPORT. The tests of the model: expected results are the vectors and programs of spec/95_test_vectors.md or words
written out from the encoding tables of spec/, never the model's own answers. The last part shows, for each statement
with hypotheses, a concrete state and operands that meet them. -/

namespace Sys2Proof.Tests

open Sys2Proof Machine

/-! ## Helpers -/

/-- The part `f` of the next state an operation answers, none where it stops. -/
def got {α : Type} (f : State → α) : Host.Outcome State Fault Refusal → Option α
  | .next t => some (f t)
  | .fault _ => none
  | .refused _ => none

/-- The refusal an operation answers. -/
def refusal : Host.Outcome State Fault Refusal → Option Refusal
  | .next _ => none
  | .fault _ => none
  | .refused r => some r

/-- The rational RATE answers. -/
def exactOf (t : State) : Option Rat := t.rate.map RateResult.exact

/-- Position, history and write cursor, the three elements most passes move. -/
def moved (t : State) : Position × BitVec 2 × Nat := (t.pos, t.hist, t.cursor)

/-- The parameters of program P4: a ring of five slots. -/
def five : Params := { Params.reference with c := 5 }

/-- A fresh state with a history and a mode. -/
def fresh (h : BitVec 2) (poll : Bool) : State := { State.reset with params := five, hist := h, poll := poll }

/-- A state with a full ring of given intervals, slot 0 the oldest, the last tick one of channel 1. -/
def full (ivs : Memory) (last0 last1 : Timestamp) : State :=
  { fresh 3#2 false with ring := ivs, unconsumed := 5, timeOfLastTick := last0, lastEdgeTime0 := last0, lastEdgeTime1 := last1 }

/-- A state as program P4 leaves it before step 7: the ring just full, the next push overwrites slot 0. -/
def justFull : State :=
  { full [(0, 100), (1, 200), (2, 300), (3, 400), (4, 500)] 600 900 with hist := 2#2, pos := 5, timeOfLastTick := 900 }

/-- The same before step 6: one slot is still free. -/
def oneFree : State :=
  { full [(0, 100), (1, 200), (2, 300), (3, 400)] 600 400 with hist := 0#2, pos := 4, cursor := 4, unconsumed := 4 }

/-- Steady rotation that fills the window exactly: five intervals of 2000, 40 steps each. -/
def steady : State := full [(0, 2000), (1, 2000), (2, 2000), (3, 2000), (4, 2000)] 6000 5000

/-- Every recorded interval is shorter than `Q` (vector V6 among them). -/
def tooShort : State := full [(0, 49), (2, -49), (3, 1)] 200 160

/-- The last tick at clock value 0, after a rollover (program P5 step 6), in poll mode. -/
def rolledOver : State := { full [(0, 2048), (1, 4294963200), (3, 2048)] 0 4294966272 with hist := 2#2, poll := true }

/-- A ring at the reference parameters with the intervals of a vector from slot 0 on. -/
def recorded (ivs : Memory) (count : Nat) (lastTick : Timestamp) : State :=
  { State.reset with ring := ivs, cursor := count, unconsumed := count, timeOfLastTick := lastTick }

/-! ## Well-formed operands: one ill-formed term for each check -/

theorem test_wf_accepts_the_last_clock_value : (Instr.rate (2 ^ 32 - 1)).wf Params.reference = true := by decide
theorem test_wf_dc1 : (Instr.dc1 (2 ^ 32)).wf Params.reference = false := by decide
theorem test_wf_dc2 : (Instr.dc2 (2 ^ 32)).wf Params.reference = false := by decide
theorem test_wf_dc4 : (Instr.dc4 (2 ^ 32)).wf Params.reference = false := by decide
theorem test_wf_dc7 : (Instr.dc7 (2 ^ 32)).wf Params.reference = false := by decide
theorem test_wf_dc8 : (Instr.dc8 (2 ^ 32)).wf Params.reference = false := by decide
theorem test_wf_dc11 : (Instr.dc11 (2 ^ 32)).wf Params.reference = false := by decide
theorem test_wf_dc13 : (Instr.dc13 (2 ^ 32)).wf Params.reference = false := by decide
theorem test_wf_dc14 : (Instr.dc14 (2 ^ 32)).wf Params.reference = false := by decide
theorem test_wf_update : (Instr.update true false (2 ^ 32)).wf Params.reference = false := by decide
theorem test_wf_read : (Instr.read true false (2 ^ 32)).wf Params.reference = false := by decide
theorem test_wf_rate : (Instr.rate (2 ^ 32)).wf Params.reference = false := by decide
theorem test_wf_write_above : (Instr.write 2147483648).wf Params.reference = false := by decide
theorem test_wf_write_below : (Instr.write (-2147483649)).wf Params.reference = false := by decide
theorem test_wf_write_ends :
    (Instr.write 2147483647).wf Params.reference = true ∧ (Instr.write (-2147483648)).wf Params.reference = true := by
  decide
theorem test_wf_ports :
    Ports.idle.wf Params.reference = true ∧ ({ Ports.idle with now := 2 ^ 32 }).wf Params.reference = false ∧
    ({ Ports.idle with wdata := 2 ^ 31 }).wf Params.reference = false := by decide

/-- R7: the reference values are accepted and each broken constraint is not. -/
theorem test_params_constraints :
    Params.reference.ok = true ∧ ({ Params.reference with c := 0 }).ok = false ∧
    ({ Params.reference with q := 0 }).ok = false ∧ ({ Params.reference with win := 40 }).ok = false ∧
    ({ Params.reference with q := 3 }).ok = false ∧ ({ Params.reference with posW := 2 }).ok = false ∧
    ({ Params.reference with tW := 0, win := 50 }).ok = false ∧ ({ Params.reference with tW := 13 }).ok = false := by
  decide

/-- R6: `CUR_W` and `CNT_W` are 13 at `C` = 5000, `N` is 200, `IV_W` is 33. -/
theorem test_derived_parameters :
    Params.reference.curW = 13 ∧ Params.reference.cntW = 13 ∧ Params.reference.n = 200 ∧ Params.reference.ivW = 33 := by
  decide

/-! ## Decoding: words written out bit by bit -/

/-- T0 to T15: the code bits `b a h1 h0` of R61. -/
theorem test_decode_codes :
    decodeCode 0b0000#4 9 = .dc0 ∧ decodeCode 0b0001#4 9 = .dc1 9 ∧ decodeCode 0b0010#4 9 = .dc2 9 ∧
    decodeCode 0b0011#4 9 = .dc3 ∧ decodeCode 0b0100#4 9 = .dc4 9 ∧ decodeCode 0b0101#4 9 = .dc5 ∧
    decodeCode 0b0110#4 9 = .dc6 ∧ decodeCode 0b0111#4 9 = .dc7 9 ∧ decodeCode 0b1000#4 9 = .dc8 9 ∧
    decodeCode 0b1001#4 9 = .dc9 ∧ decodeCode 0b1010#4 9 = .dc10 ∧ decodeCode 0b1011#4 9 = .dc11 9 ∧
    decodeCode 0b1100#4 9 = .dc12 ∧ decodeCode 0b1101#4 9 = .dc13 9 ∧ decodeCode 0b1110#4 9 = .dc14 9 ∧
    decodeCode 0b1111#4 9 = .dc15 := by decide

/-- T0 to T15: `code`, `delta`, new `hist` and class of each history and pair. -/
theorem test_transition_table :
    [0#2, 1#2, 2#2, 3#2].map (fun h => (delta (codeOf h false false), edgeClass (codeOf h false false))) =
      [(0, .none), (1, .ch1), (-1, .ch2), (2, .dbl)] ∧
    [0#2, 1#2, 2#2, 3#2].map (fun h => (delta (codeOf h true false), edgeClass (codeOf h true false))) =
      [(-1, .ch1), (0, .none), (-2, .dbl), (1, .ch2)] ∧
    [0#2, 1#2, 2#2, 3#2].map (fun h => (delta (codeOf h false true), edgeClass (codeOf h false true))) =
      [(1, .ch2), (-2, .dbl), (0, .none), (-1, .ch1)] ∧
    [0#2, 1#2, 2#2, 3#2].map (fun h => (delta (codeOf h true true), edgeClass (codeOf h true true))) =
      [(2, .dbl), (-1, .ch2), (1, .ch1), (0, .none)] := by decide

/-- P1 and P2: the encodings of the programs' lines, opcode first (R66), operands above it (R71). -/
theorem test_decode_commands :
    decodeFrame Params.reference 0b000 = .ok .nop ∧
    decodeFrame Params.reference 0b1100001 = .ok (.init false false 3#2) ∧
    decodeFrame Params.reference 0b1001001 = .ok (.init true false 2#2) ∧
    decodeFrame Params.reference (0b10010 + 32 * 0x3E8) = .ok (.edge false true 1000) ∧
    decodeFrame Params.reference (0b01011 + 32 * 0x1388) = .ok (.read true false 5000) ∧
    decodeFrame Params.reference (0b100 + 8 * 0x80000000) = .ok (.write (-2147483648)) ∧
    decodeFrame Params.reference (0b101 + 8 * 0xBB8) = .ok (.rate 3000) ∧
    decodeFrame Params.reference 0b110 = .ok .reserved6 ∧ decodeFrame Params.reference 0b111 = .ok .reserved7 := by decide

/-- R66: the opcode on the port selects the operation; R67: the ports it does not read play no part. -/
theorem test_decode_ports :
    [0#3, 1#3, 2#3, 3#3, 4#3, 5#3, 6#3, 7#3].map (fun op => decodePorts { op := op, a := true, b := false, now := 7, wdata := -7, bound := 2#2 }) =
      [.nop, .init true false 2#2, .update true false 7, .read true false 7, .write (-7), .rate 7, .reserved6, .reserved7] := by decide

/-- A bit above the last operand makes a number no command, by name. -/
theorem test_decode_rejects_trailing_bits :
    decodeFrame Params.reference 0b1000 = .error (.trailingBits 0) ∧
    decodeFrame Params.reference (0b001 + 8 * 16) = .error (.trailingBits 1) ∧
    decodeFrame Params.reference (0b101 + 8 * 2 ^ 32) = .error (.trailingBits 5) := by decide

theorem test_encode_write : encode Params.reference (.write (-7)) = .frame (0b100 + 8 * 0xFFFFFFF9) := by decide

/-- Table words at their own length, and at whole bytes (log entry 10). -/
theorem test_table_words :
    decodeTableWord 4 0b0111 = some (.dc7 0) ∧ decodeTableWord 8 0b1101 = some (.dc13 0) ∧
    decodeTableWord 3 0b100 = some (.write 0) ∧ decodeTableWord 8 0b101 = some (.rate 0) ∧ decodeTableWord 8 16 = none := by
  decide

/-- R71, R72: `wdata` as a bit pattern, READ alone, and the two spellings of UPDATE. -/
theorem test_assembler :
    assemble Params.reference (.write 0x80000000) = .write (-2147483648) ∧
    assemble Params.reference .readAlone = .read false false 0 ∧
    assemble Params.reference (.edge true false 5) = .update true false 5 ∧
    assemble Params.reference (.poll true false 5) = .update true false 5 := by decide

/-- A placed command is the very next operation; a placed code is formed by the pass of the next step. -/
theorem test_fetch_word :
    got State.pos (step (State.reset.withFetchWord 4 0b1100)) = some 2 ∧
    refusal (step (State.reset.withFetchWord 3 0b110)) = some (.reservedOpcode 6#3) := by decide

/-! ## One step of each operation -/

/-- T0. -/
theorem test_dc0 : got moved (exec .dc0 (fresh 0#2 false)) = some (0, 0#2, 0) := by decide
/-- P1 step 5. -/
theorem test_dc1 : got moved (exec (.dc1 2500) (fresh 1#2 false)) = some (1, 0#2, 1) := by decide
/-- P3 step 7: push -9500 on channel 2. -/
theorem test_dc2 :
    got (fun t => (t.pos, t.ring, t.lastEdgeTime1)) (exec (.dc2 9500) (fresh 2#2 true)) = some (-1, [(0, -9500)], 9500) := by
  decide
/-- P2 step 6, and no push. -/
theorem test_dc3 :
    got moved (exec .dc3 { fresh 3#2 false with pos := -2147483648 }) = some (-2147483646, 0#2, 0) := by decide
/-- S1. -/
theorem test_dc4 : got moved (exec (.dc4 400) (fresh 0#2 false)) = some (-1, 1#2, 1) := by decide
/-- T5. -/
theorem test_dc5 : got moved (exec .dc5 (fresh 1#2 false)) = some (0, 1#2, 0) := by decide
/-- A5: the wrap by -2 at the low end. -/
theorem test_dc6 :
    got moved (exec .dc6 { fresh 2#2 false with pos := -2147483648 }) = some (2147483646, 1#2, 0) := by decide
/-- T7. -/
theorem test_dc7 : got moved (exec (.dc7 400) (fresh 3#2 false)) = some (1, 1#2, 1) := by decide
/-- A1: the wrap by +1 at the high end. -/
theorem test_dc8 :
    got moved (exec (.dc8 100) { fresh 0#2 false with pos := 2147483647 }) = some (-2147483648, 2#2, 1) := by decide
/-- T9. -/
theorem test_dc9 : got moved (exec .dc9 (fresh 1#2 false)) = some (-2, 2#2, 0) := by decide
/-- A11. -/
theorem test_dc10 : got moved (exec .dc10 { fresh 2#2 false with pos := 12345 }) = some (12345, 2#2, 0) := by decide
/-- P2 step 3: the wrap by -1 and the push of -700. -/
theorem test_dc11 :
    got (fun t => (t.pos, t.ring, t.hist)) (exec (.dc11 700) { fresh 3#2 false with pos := -2147483648 }) =
      some (2147483647, [(0, -700)], 2#2) := by decide
/-- A2: the wrap by +2; nothing is recorded. -/
theorem test_dc12 :
    got (fun t => (t.pos, t.ring, t.unconsumed)) (exec .dc12 { fresh 0#2 false with pos := 2147483647 }) =
      some (-2147483647, [], 0) := by decide
/-- S2. -/
theorem test_dc13 : got moved (exec (.dc13 400) (fresh 1#2 false)) = some (-1, 3#2, 1) := by decide
/-- P4 step 7: the full ring loses its oldest slot. -/
theorem test_dc14_full :
    got (fun t => (t.ringContents, t.cursor, t.unconsumed)) (exec (.dc14 1200) justFull) =
      some ([200, 300, 400, 500, 600], 1, 5) := by decide
/-- T15. -/
theorem test_dc15 : got moved (exec .dc15 (fresh 3#2 false)) = some (0, 3#2, 0) := by decide
/-- B3: the clock wrapped between the two edges, the last slot is written and the cursor wraps. -/
theorem test_update_rollover :
    got (fun t => (t.ring, t.cursor, t.unconsumed, t.lastEdgeTime0, t.timeOfLastTick))
      (exec (.update true false 0x100)
        { State.reset with lastEdgeTime0 := 0xFFFFFF00, cursor := 4999, unconsumed := 4999 }) =
      some ([(4999, -512)], 0, 5000, 0x100, 0x100) := by decide
/-- K10: `poll` does not gate UPDATE. -/
theorem test_update_in_poll_mode :
    got (fun t => (t.pos, t.ring, t.hist)) (exec (.edge true true 500) (fresh 2#2 true)) = some (1, [(0, 500)], 3#2) := by
  decide
/-- A12. -/
theorem test_read_interrupt_mode :
    got (fun t => (t.rdata, t.hist, t.cursor)) (exec (.read true true 99) { fresh 0#2 false with pos := -5 }) =
      some (some (-5), 0#2, 0) := by decide
/-- A13. -/
theorem test_read_poll_mode :
    got (fun t => (t.rdata, t.ring, t.lastEdgeTime0, t.timeOfLastTick, t.hist))
      (exec (.read false true 1000) { fresh 3#2 true with pos := 10, lastEdgeTime0 := 400, lastEdgeTime1 := 300 }) =
      some (some 9, [(0, -600)], 1000, 1000, 2#2) := by decide
/-- A14. -/
theorem test_write : got (fun t => (t.pos, t.hist, t.ring)) (exec (.write (-2147483648)) justFull) =
    some (-2147483648, 2#2, justFull.ring) := by decide
/-- V3, V6, V8, V9, V13d: partial credit, entries without a step, one entry longer than the window, a negative one. -/
theorem test_rate_values :
    got exactOf (exec (.rate 0) (recorded [(0, 7000), (1, 6000)] 2 0)) = some (some (11 / 35000)) ∧
    got exactOf (exec (.rate 0) (recorded [(0, 49), (2, -49)] 3 0)) = some (some 0) ∧
    got exactOf (exec (.rate 0) (recorded [(0, 20000)] 1 0)) = some (some (1 / 10000)) ∧
    got exactOf (exec (.rate 0) (recorded [(0, -12345)] 1 0)) = some (some (-2 / 12345)) ∧
    got exactOf (exec (.rate 0) (recorded [(0, 10050)] 1 0)) = some (some (1 / 5025)) := by decide +kernel
/-- P3 steps 9 and 10: the two sides of the stall boundary. -/
theorem test_rate_stall_boundary :
    got exactOf (exec (.rate 19500) (recorded [(0, -9000), (1, -9500)] 2 9500)) = some (some (-19 / 90000)) ∧
    got exactOf (exec (.rate 19501) (recorded [(0, -9000), (1, -9500)] 2 9500)) = some (some 0) := by decide +kernel
/-- K4 and K2: both outcomes of the bindings. -/
theorem test_init :
    got (fun t => (t.hist, t.poll, t.pos, t.ring)) (exec (.init true true 1#2) justFull) = some (3#2, true, 0, []) ∧
    got (fun t => (t.hist, t.poll, t.unconsumed)) (exec (.init true false 3#2) justFull) = some (1#2, false, 0) := by decide
/-- K7. -/
theorem test_nop : got id (exec .nop justFull) = some justFull := by decide
/-- K8. -/
theorem test_reserved6 : refusal (exec .reserved6 justFull) = some (.reservedOpcode 6#3) := by decide
/-- K8. -/
theorem test_reserved7 : refusal (exec .reserved7 justFull) = some (.reservedOpcode 7#3) := by decide
/-- K9. -/
theorem test_before_init :
    [Instr.read true true 0, .update true true 0, .write 0, .rate 0, .nop].map (fun i => refusal (exec i State.powerOn)) =
      [some .beforeInit, some .beforeInit, some .beforeInit, some .beforeInit, some .beforeInit] := by decide

/-- B4 to B7: a zero interval, the extreme intervals, and saturation of `unconsumed`. -/
theorem test_push_extremes :
    (pushEdge { State.reset with lastEdgeTime0 := 500, cursor := 3, unconsumed := 3 } .ch1 500 1).toOption.map (fun t => (t.ring, t.unconsumed)) = some ([], 4) ∧
    (pushEdge { State.reset with cursor := 4999, unconsumed := 5000 } .ch2 0xFFFFFFFF (-1)).toOption.map
      (fun t => (t.ring, t.cursor, t.unconsumed)) = some ([(4999, -4294967295)], 0, 5000) ∧
    (pushEdge { State.reset with lastEdgeTime0 := 501, cursor := 3, unconsumed := 3 } .ch1 500 1).toOption.map State.ring = some [(3, 4294967295)] ∧
    (pushEdge { State.reset with lastEdgeTime0 := 0x80000000 } .ch1 0 1).toOption.map State.ring = some [(0, 2147483648)] := by
  decide

/-- R41: an access outside slots 0 to `C - 1` is the one guard fault. -/
theorem test_slot_guard :
    memRead (fresh 0#2 false) 4 = .ok 0 ∧ memRead (fresh 0#2 false) 5 = .error (.slotOutOfRange 5) := ⟨rfl, rfl⟩

/-- R164: the edge notification first, the host operation at the next step; nothing ready is a NOP. -/
theorem test_presentation :
    (present [{ edge := some { a := true, b := false, now := 5 }, host := some Ports.idle }]) =
      ({ op := 2#3, a := true, b := false, now := 5, wdata := 0, bound := 0#2 }, [{ edge := none, host := some Ports.idle }]) ∧
    (present []).1.op = 0#3 := by decide

/-! ## Witnesses: states and operands that meet the hypotheses of the statements -/

/-- The invariant of a small state from checks that Lean can evaluate. -/
theorem live_of_checks {s : State} (hp : s.params.ok = true) (hb : s.built = true)
    (hr : SFits s.params.posW s.pos ∧ s.cursor < s.params.c ∧ s.unconsumed ≤ s.params.c ∧
      UFits s.params.tW s.timeOfLastTick ∧ UFits s.params.tW s.lastEdgeTime0 ∧ UFits s.params.tW s.lastEdgeTime1)
    (hs : Memory.wf s.ring = true ∧ ∀ e ∈ s.ring, e.2.natAbs < 2 ^ s.params.tW ∧ e.1 < s.unconsumed)
    (ht : (s.unconsumed < s.params.c → s.cursor = s.unconsumed) ∧
      (s.unconsumed = 0 → s.timeOfLastTick = 0 ∧ s.lastEdgeTime0 = 0 ∧ s.lastEdgeTime1 = 0) ∧
      (0 < s.unconsumed → s.timeOfLastTick = s.lastEdgeTime0 ∨ s.timeOfLastTick = s.lastEdgeTime1))
    (ho : s.rdata = none ∧ s.rate = none) : s.Live := by
  have listed : ∀ i, Memory.get s.ring i = sentinel ∨ ∃ e ∈ s.ring, e.1 = i ∧ Memory.get s.ring i = e.2 := by
    intro i
    generalize s.ring = m
    induction m with
    | nil => exact .inl rfl
    | cons e rest ih =>
      simp only [Memory.get]
      split
      · exact .inr ⟨e, by simp, by simp_all, rfl⟩
      · rcases ih with h | ⟨e', he', h⟩
        · exact .inl h
        · exact .inr ⟨e', by simp [he'], h⟩
  obtain ⟨r1, r2, r3, r4, r5, r6⟩ := hr
  obtain ⟨t1, t2, t3⟩ := ht
  refine ⟨hb, hp, ⟨r1, r2, r3, r4, r5, r6, ?_, by simp [ho.1]⟩, ⟨hs.1, t1, ?_, t2, t3⟩, fun r h => by simp [ho.2] at h⟩
  · intro i
    rcases listed i with h | ⟨e, he, -, h⟩
    · rw [h]; exact Nat.two_pow_pos _
    · rw [h]; exact (hs.2 e he).1
  · intro i hi
    rcases listed i with h | ⟨e, he, rfl, -⟩
    · exact absurd h hi
    · exact (hs.2 e he).2

/-- A next state named by the part that a test reads of it. -/
theorem next_of_got {o : Host.Outcome State Fault Refusal} (h : (got id o).isSome = true) : ∃ t, o = .next t := by
  cases o with
  | next t => exact ⟨t, rfl⟩
  | fault f => simp [got] at h
  | refused r => simp [got] at h

/-- A result of RATE named by its rational. -/
theorem rate_of_got {P : Rat → Prop} {o : Host.Outcome State Fault Refusal} {v : Rat}
    (h : got exactOf o = some (some v)) (hv : P v) : ∃ t r, o = .next t ∧ t.rate = some r ∧ P r.exact := by
  cases o with
  | next t =>
    simp only [got, exactOf, Option.some.injEq] at h
    cases hr : t.rate with
    | none => simp [hr] at h
    | some r =>
      simp only [hr, Option.map_some, Option.some.injEq] at h
      exact ⟨t, r, rfl, hr, h ▸ hv⟩
  | fault f => simp [got] at h
  | refused r => simp [got] at h

theorem live_fresh (h : BitVec 2) (poll : Bool) : (fresh h poll).Live := by
  exact live_of_checks (by decide +revert) rfl (by decide +revert) (by decide +revert) (by decide +revert)
    (by decide +revert)
theorem live_justFull : justFull.Live :=
  live_of_checks (by decide) rfl (by decide) (by decide) (by decide) (by decide)
theorem live_oneFree : oneFree.Live :=
  live_of_checks (by decide) rfl (by decide) (by decide) (by decide) (by decide)
theorem live_steady : steady.Live :=
  live_of_checks (by decide) rfl (by decide) (by decide) (by decide) (by decide)
theorem live_tooShort : tooShort.Live :=
  live_of_checks (by decide) rfl (by decide) (by decide) (by decide) (by decide)
theorem live_rolledOver : rolledOver.Live :=
  live_of_checks (by decide) rfl (by decide) (by decide) (by decide) (by decide)

/-- NoMovementCodesOnlySetHist. -/
theorem witness_NoMovementCodesOnlySetHist : justFull.Live := live_justFull

/-- ChannelOneCodesStepAndPush: the ring full, and the ring with one slot free, the last clock value. -/
theorem witness_ChannelOneCodesStepAndPush :
    (justFull.Live ∧ UFits justFull.params.tW 0) ∧ (oneFree.Live ∧ UFits oneFree.params.tW (2 ^ 32 - 1)) :=
  ⟨⟨live_justFull, by decide⟩, live_oneFree, by decide⟩

/-- ChannelTwoCodesStepAndPush: the same two states. -/
theorem witness_ChannelTwoCodesStepAndPush :
    (justFull.Live ∧ UFits justFull.params.tW (2 ^ 32 - 1)) ∧ (oneFree.Live ∧ UFits oneFree.params.tW 0) :=
  ⟨⟨live_justFull, by decide⟩, live_oneFree, by decide⟩

/-- DoubleStepCodesMoveByTwoAndRecordNothing. -/
theorem witness_DoubleStepCodesMoveByTwoAndRecordNothing : oneFree.Live := live_oneFree

/-- UpdateIsOneDecodePass: a pass of each class, from history 2. -/
theorem witness_UpdateIsOneDecodePass :
    justFull.Live ∧ UFits justFull.params.tW 1200 ∧ edgeClass (codeOf justFull.hist true true) = .ch1 ∧
    edgeClass (codeOf justFull.hist false false) = .ch2 ∧ edgeClass (codeOf justFull.hist false true) = .none ∧
    edgeClass (codeOf justFull.hist true false) = .dbl :=
  ⟨live_justFull, by decide, by decide, by decide, by decide, by decide⟩

/-- UpdateFollowsTheClosedForms: history 2 and history 0. -/
theorem witness_UpdateFollowsTheClosedForms :
    (justFull.Live ∧ UFits justFull.params.tW 1200) ∧ (oneFree.Live ∧ UFits oneFree.params.tW 900) :=
  ⟨⟨live_justFull, by decide⟩, live_oneFree, by decide⟩

/-- SpuriousPassChangesNothing. -/
theorem witness_SpuriousPassChangesNothing : justFull.Live ∧ pairOf false true = justFull.hist :=
  ⟨live_justFull, by decide⟩

/-- HistHoldsTheLatestPair: each of the three operations answers a next state, READ in both modes. -/
theorem witness_HistHoldsTheLatestPair :
    (∃ t, exec (.init true false 3#2) justFull = .next t) ∧ (∃ t, exec (.update true false 9) justFull = .next t) ∧
    (∃ t, exec (.read true false 9) justFull = .next t) ∧ (∃ t, exec (.read true false 9) rolledOver = .next t) :=
  ⟨next_of_got (by decide), next_of_got (by decide), next_of_got (by decide), next_of_got (by decide)⟩

/-- PositionAddsTheDeltasOfThePasses: the forward cycle Q1. -/
theorem witness_PositionAddsTheDeltasOfThePasses :
    (fresh 0#2 false).Live ∧
    ∀ e ∈ [EdgeNotice.mk false true 100, ⟨true, true, 200⟩, ⟨true, false, 300⟩, ⟨false, false, 400⟩],
      UFits (fresh 0#2 false).params.tW e.now :=
  ⟨live_fresh _ _, by decide⟩

/-- OneForwardCycleAddsFour: from pair (0,0) and from pair (0,1). -/
theorem witness_OneForwardCycleAddsFour :
    (oneFree.Live ∧ pairOf false false = oneFree.hist) ∧ (justFull.Live ∧ pairOf false true = justFull.hist) :=
  ⟨⟨live_oneFree, by decide⟩, live_justFull, by decide⟩

/-- SingleStepAndBackCancel: channel 1 there and back, and channel 2. -/
theorem witness_SingleStepAndBackCancel :
    justFull.Live ∧ pairOf false true = justFull.hist ∧ (true != false) = !(true != true) ∧
    (false != false) = !(false != true) :=
  ⟨live_justFull, by decide, by decide, by decide⟩

/-- DoubleStepAndBackMovesByFour: equal samples and different samples. -/
theorem witness_DoubleStepAndBackMovesByFour :
    (oneFree.Live ∧ pairOf false false = oneFree.hist) ∧ (justFull.Live ∧ pairOf false true = justFull.hist) :=
  ⟨⟨live_oneFree, by decide⟩, live_justFull, by decide⟩

/-- UnseenStepsAliasModuloFour: the three unseen steps of Q6, from the pair (0,0). -/
theorem witness_UnseenStepsAliasModuloFour :
    oneFree.Live ∧ pairOf false false = oneFree.hist ∧ Expected.forwardBy 3 (false, false) = (true, false) :=
  ⟨live_oneFree, by decide, by decide⟩

/-- ReadPollsThenReturnsThePosition: both modes. -/
theorem witness_ReadPollsThenReturnsThePosition :
    (rolledOver.Live ∧ rolledOver.poll = true ∧ UFits rolledOver.params.tW (2 ^ 32 - 1)) ∧
    (justFull.Live ∧ justFull.poll = false) :=
  ⟨⟨live_rolledOver, rfl, by decide⟩, live_justFull, rfl⟩

/-- WriteSetsThePositionOnly: both ends of the range. -/
theorem witness_WriteSetsThePositionOnly :
    justFull.Live ∧ SFits justFull.params.posW 2147483647 ∧ SFits justFull.params.posW (-2147483648) :=
  ⟨live_justFull, by decide, by decide⟩

/-- PositionAdditionIsTwosComplement: the least width. -/
theorem witness_PositionAdditionIsTwosComplement : 3 ≤ 3 := by decide

/-- WriteThenReadReturnsTheValue: both modes. -/
theorem witness_WriteThenReadReturnsTheValue :
    (rolledOver.Live ∧ SFits rolledOver.params.posW (-7) ∧ rolledOver.poll = true ∧
      pairOf false true = rolledOver.hist) ∧
    (justFull.Live ∧ SFits justFull.params.posW (-7) ∧ justFull.poll = false) :=
  ⟨⟨live_rolledOver, by decide, rfl, by decide⟩, live_justFull, by decide, rfl⟩

/-- ReadThenReadReturnsTheSame: poll mode with the same samples, and the other mode with different ones. -/
theorem witness_ReadThenReadReturnsTheSame :
    (rolledOver.Live ∧ rolledOver.poll = true ∧ true = true ∧ false = false) ∧ (justFull.Live ∧ justFull.poll = false) :=
  ⟨⟨live_rolledOver, rfl, rfl, rfl⟩, live_justFull, rfl⟩

/-- WriteThenWriteOrPass. -/
theorem witness_WriteThenWriteOrPass :
    justFull.Live ∧ SFits justFull.params.posW 2147483647 ∧ SFits justFull.params.posW 0 :=
  ⟨live_justFull, by decide, by decide⟩

/-- ElapsedTimeSurvivesClockRollover: the last clock value, B3's wrap. -/
theorem witness_ElapsedTimeSurvivesClockRollover : UFits 32 (2 ^ 32 - 1) ∧ UFits 32 0xFFFFFF00 := by decide

/-- PushAppendsAndDropsTheOldestWhenFull: one slot free and none, a push of each channel. -/
theorem witness_PushAppendsAndDropsTheOldestWhenFull :
    (oneFree.Live ∧ UFits oneFree.params.tW 900 ∧ edgeClass (codeOf oneFree.hist false true) = .ch2 ∧
      oneFree.unconsumed < oneFree.params.c) ∧
    (justFull.Live ∧ UFits justFull.params.tW 1200 ∧ edgeClass (codeOf justFull.hist true true) = .ch1 ∧
      ¬ justFull.unconsumed < justFull.params.c) :=
  ⟨⟨live_oneFree, by decide, by decide, by decide⟩, live_justFull, by decide, by decide, by decide⟩

/-- RingHoldsTheLastIntervalsPushed: program P4, six pushes into five slots. -/
theorem witness_RingHoldsTheLastIntervalsPushed :
    (fresh 0#2 false).params.ok = true ∧
    let es := [EdgeNotice.mk false true 100, ⟨true, true, 200⟩, ⟨true, false, 400⟩, ⟨false, false, 600⟩,
      ⟨false, true, 900⟩, ⟨true, true, 1200⟩]
    (∀ e ∈ es, UFits (fresh 0#2 false).params.tW e.now) ∧
    Expected.pushed 32 (pairOf false false) 0 0 es = [100, 200, 300, 400, 500, 600] :=
  ⟨by decide, by decide, by decide⟩

/-- UnconsumedOnlyCountsUp: a push with one slot free and one with none. -/
theorem witness_UnconsumedOnlyCountsUp :
    (oneFree.Inv ∧ (Instr.dc8 900).isInit = false ∧ ∃ t, exec (.dc8 900) oneFree = .next t) ∧
    (justFull.Inv ∧ (Instr.dc14 1200).isInit = false ∧ ∃ t, exec (.dc14 1200) justFull = .next t) :=
  ⟨⟨live_oneFree.inv, rfl, next_of_got (by decide)⟩, live_justFull.inv, rfl, next_of_got (by decide)⟩

/-- RateChangesNoStateAndRepeats: both modes. -/
theorem witness_RateChangesNoStateAndRepeats : steady.Live ∧ rolledOver.Live := ⟨live_steady, live_rolledOver⟩

/-- RateIsZeroWithoutEdgesOrWhenStalled: no edge at all, and one unit past the window. -/
theorem witness_RateIsZeroWithoutEdgesOrWhenStalled :
    ((fresh 0#2 false).Live ∧ UFits (fresh 0#2 false).params.tW 12345 ∧ (fresh 0#2 false).unconsumed = 0) ∧
    (steady.Live ∧ UFits steady.params.tW 16001 ∧
      (steady.params.win : Int) < (((16001 : Nat) : Int) - steady.timeOfLastTick) % 2 ^ steady.params.tW) :=
  ⟨⟨live_fresh _ _, by decide, rfl⟩, live_steady, by decide, by decide⟩

/-- RateIsTheWindowedWeightedSum: the last clock value before the stall. -/
theorem witness_RateIsTheWindowedWeightedSum :
    steady.Live ∧ UFits steady.params.tW 16000 ∧ 0 < steady.unconsumed ∧
    (((16000 : Nat) : Int) - steady.timeOfLastTick) % 2 ^ steady.params.tW ≤ (steady.params.win : Int) :=
  ⟨live_steady, by decide, by decide, by decide⟩

/-- RateIsAtMostTwoOverQ. -/
theorem witness_RateIsAtMostTwoOverQ : ∃ t, exec (.rate 6000) steady = .next t := next_of_got (by decide +kernel)

/-- SteadyRotationGivesTwoOverT: five intervals of 2000 fill the window of 200 steps exactly. -/
theorem witness_SteadyRotationGivesTwoOverT :
    steady.Live ∧ UFits steady.params.tW 6000 ∧
    (((6000 : Nat) : Int) - steady.timeOfLastTick) % 2 ^ steady.params.tW ≤ (steady.params.win : Int) ∧
    5 ≤ steady.unconsumed ∧ (∀ k < 5, Expected.entry steady k = 2000) ∧ steady.params.q ≤ (2000 : Int).natAbs ∧
    (2000 : Int).natAbs % steady.params.q = 0 ∧ steady.params.n ≤ 5 * ((2000 : Int).natAbs / steady.params.q) :=
  ⟨live_steady, by decide, by decide, by decide, by decide, by decide, by decide, by decide⟩

/-- IntervalsShorterThanQAreInvisible: entries of 49, one below `Q`, and zero entries. -/
theorem witness_IntervalsShorterThanQAreInvisible :
    tooShort.Live ∧ ∀ k < tooShort.unconsumed, (Expected.entry tooShort k).natAbs < tooShort.params.q :=
  ⟨live_tooShort, by decide⟩

/-- RateOutputKeepsTheSign: a positive, a negative and a zero result. -/
theorem witness_RateOutputKeepsTheSign :
    (∃ t r, exec (.rate 6000) steady = .next t ∧ t.rate = some r ∧ 0 < r.exact) ∧
    (∃ t r, exec (.rate 0) (recorded [(0, -12345)] 1 0) = .next t ∧ t.rate = some r ∧ r.exact < 0) ∧
    (∃ t r, exec (.rate 200) tooShort = .next t ∧ t.rate = some r ∧ r.exact = 0) :=
  ⟨rate_of_got (P := fun q => 0 < q) (v := 1 / 1000) (by decide +kernel) (by decide +kernel),
    rate_of_got (P := fun q => q < 0) (v := -2 / 12345) (by decide +kernel) (by decide +kernel),
    rate_of_got (P := fun q => q = 0) (v := 0) (by decide +kernel) rfl⟩

/-- RateDiffersOnlyByTheStall: the two sides of the stall boundary, `1 / 1000` and 0. -/
theorem witness_RateDiffersOnlyByTheStall :
    steady.Live ∧ (∃ t r, exec (.rate 16000) steady = .next t ∧ t.rate = some r ∧ r.exact = 1 / 1000) ∧
    (∃ u r, exec (.rate 16001) steady = .next u ∧ u.rate = some r ∧ r.exact = 0) :=
  ⟨live_steady, rate_of_got (P := fun q => q = 1 / 1000) (v := 1 / 1000) (by decide +kernel) rfl,
    rate_of_got (P := fun q => q = 0) (v := 0) (by decide +kernel) rfl⟩

/-- RateOneUnitBeforeTheTickIsZero: program P5 step 11's case, and the tick at clock value 0. -/
theorem witness_RateOneUnitBeforeTheTickIsZero :
    (steady.Live ∧ UFits steady.params.tW 5999 ∧ steady.timeOfLastTick = (5999 + 1) % 2 ^ steady.params.tW ∧
      steady.params.win < 2 ^ steady.params.tW - 1) ∧
    (rolledOver.Live ∧ UFits rolledOver.params.tW (2 ^ 32 - 1) ∧
      rolledOver.timeOfLastTick = (2 ^ 32 - 1 + 1) % 2 ^ rolledOver.params.tW ∧
      rolledOver.params.win < 2 ^ rolledOver.params.tW - 1) :=
  ⟨⟨live_steady, by decide, by decide, by decide⟩, live_rolledOver, by decide, by decide, by decide⟩

/-- WriteKeepsTheRateAndInitErasesIt. -/
theorem witness_WriteKeepsTheRateAndInitErasesIt : steady.Live := live_steady

/-- InitLeavesTheResetTable: a state with a full ring, and the block before the first INIT. -/
theorem witness_InitLeavesTheResetTable : justFull.params.ok = true ∧ State.powerOn.params.ok = true := by decide

/-- InitReadsNoState: two different states. -/
theorem witness_InitReadsNoState :
    justFull.params = steady.params ∧ justFull.env = steady.env ∧ justFull ≠ steady := by decide

/-- NopChangesNothing: a live state, and the block before the first INIT. -/
theorem witness_NopChangesNothing :
    justFull.Live ∧ State.powerOn.params.ok = true ∧ State.powerOn.built = false :=
  ⟨live_justFull, by decide, rfl⟩

/-- The encoding clauses of the statements about the commands: ports with each opcode. -/
theorem witness_opcode_on_the_ports (op : BitVec 3) : ({ Ports.idle with op := op }).op = op := rfl

/-- BeforeInitOnlyInitHasAMeaning: an operation of each clause. -/
theorem witness_BeforeInitOnlyInitHasAMeaning :
    State.powerOn.params.ok = true ∧ State.powerOn.built = false ∧ Instr.nop.isInit = false ∧
    Instr.nop.isReserved = false ∧ (Instr.init true true 0#2).isInit = true := by decide

/-- BadParameterSetsAreRefused: a window that the clock cannot hold, at the boundary `WIN = 2^T_W`. -/
theorem witness_BadParameterSetsAreRefused :
    (let p : Params := { posW := 3, tW := 4, c := 1, win := 16, q := 1 }
     ¬ (1 ≤ p.c ∧ 1 ≤ p.q ∧ p.q ≤ p.win ∧ p.win % p.q = 0 ∧ 3 ≤ p.posW ∧ 1 ≤ p.tW ∧ p.win < 2 ^ p.tW)) ∧
    Instr.nop.isReserved = false := by decide

/-- EveryOperationCompletesInALiveState: the reset-like state and a full ring in poll mode. -/
theorem witness_EveryOperationCompletesInALiveState :
    (fresh 0#2 false).Live ∧ rolledOver.Live ∧ (Instr.read true false 9).isReserved = false :=
  ⟨live_fresh _ _, live_rolledOver, by decide⟩

/-- NoStepFaults. -/
theorem witness_NoStepFaults : justFull.Inv := live_justFull.inv

/-- OnlyInitWritesPoll: INIT and an operation that is not INIT. -/
theorem witness_OnlyInitWritesPoll :
    (∃ t, exec (.init true true 0#2) justFull = .next t) ∧
    (∃ t, exec (.write 3) justFull = .next t) ∧ (Instr.write 3).isInit = false :=
  ⟨next_of_got (by decide), next_of_got (by decide), rfl⟩

/-- UpdateFrame: a pass of each class, from history 2. -/
theorem witness_UpdateFrame :
    (∃ t, exec (.update true true 1200) justFull = .next t) ∧ (∃ t, exec (.update false false 1200) justFull = .next t) ∧
    (∃ t, exec (.update false true 1200) justFull = .next t) ∧ (∃ t, exec (.update true false 1200) justFull = .next t) :=
  ⟨next_of_got (by decide), next_of_got (by decide), next_of_got (by decide), next_of_got (by decide)⟩

/-- DecodeCodesFrame: a code of each class. -/
theorem witness_DecodeCodesFrame :
    ((∃ t, exec .dc10 justFull = .next t) ∧ Instr.dc10.isCode = true ∧ justFull.Inv) ∧
    ((∃ t, exec (.dc14 1200) justFull = .next t) ∧ (Instr.dc14 1200).isCode = true) ∧
    ((∃ t, exec (.dc2 1200) justFull = .next t) ∧ (Instr.dc2 1200).isCode = true) ∧
    ((∃ t, exec .dc6 justFull = .next t) ∧ Instr.dc6.isCode = true) :=
  ⟨⟨next_of_got (by decide), rfl, live_justFull.inv⟩, ⟨next_of_got (by decide), rfl⟩, ⟨next_of_got (by decide), rfl⟩,
    next_of_got (by decide), rfl⟩

/-- ReadFrame: both modes. -/
theorem witness_ReadFrame :
    (justFull.poll = false ∧ ∃ t, exec (.read true true 9) justFull = .next t) ∧
    (rolledOver.poll = true ∧ ∃ t, exec (.read true true 9) rolledOver = .next t) :=
  ⟨⟨rfl, next_of_got (by decide)⟩, rfl, next_of_got (by decide)⟩

/-- WriteRateNopFrame: each of the three operations. -/
theorem witness_WriteRateNopFrame :
    (∃ t, exec (.write 3) steady = .next t) ∧ (∃ t, exec (.rate 6000) steady = .next t) ∧
    (∃ t, exec .nop steady = .next t) :=
  ⟨next_of_got (by decide), next_of_got (by decide +kernel), next_of_got (by decide)⟩

/-- DecodeOfEncodeIsTheOperation: operands at the ends of their ranges. -/
theorem witness_DecodeOfEncodeIsTheOperation :
    Params.reference.ok = true ∧ (Instr.write (-2147483648)).wf Params.reference = true ∧
    (Instr.update true true (2 ^ 32 - 1)).wf Params.reference = true := by decide

/-- UnreadPortsHaveNoEffect: READ with `poll = 0` on ports that differ in all but the opcode. -/
theorem witness_UnreadPortsHaveNoEffect :
    let x : Ports := { op := 3#3, a := true, b := false, now := 5, wdata := 9, bound := 3#2 }
    let y : Ports := { op := 3#3, a := false, b := true, now := 6, wdata := 8, bound := 0#2 }
    x.op = y.op ∧ (x.op = 1#3 ∨ x.op = 2#3 ∨ (x.op = 3#3 ∧ justFull.poll = true) → x.a = y.a ∧ x.b = y.b) ∧
    (x.op = 2#3 ∨ x.op = 5#3 ∨ (x.op = 3#3 ∧ justFull.poll = true) → x.now = y.now) ∧
    (x.op = 4#3 → x.wdata = y.wdata) ∧ (x.op = 1#3 → x.bound = y.bound) := by decide

/-- StepPerformsThePresentedOperation: an offer of each form, and an operation an agent can present. -/
theorem witness_StepPerformsThePresentedOperation :
    let e : EdgeNotice := { a := true, b := true, now := 1200 }
    (justFull.setEnv [{ edge := none, host := some Ports.idle }]).env = { edge := none, host := some Ports.idle } :: [] ∧
    (justFull.setEnv [{ edge := some e, host := none }]).env = { edge := some e, host := none } :: [] ∧
    (justFull.setEnv [{ edge := some e, host := some Ports.idle }]).env = { edge := some e, host := some Ports.idle } :: [] ∧
    (justFull.setEnv [{ edge := none, host := none }]).env = { edge := none, host := none } :: [] ∧ justFull.env = [] ∧
    (Instr.write 3).isCode = false := by decide

/-- EdgeThenHostInTwoSteps. -/
theorem witness_EdgeThenHostInTwoSteps :
    let e : EdgeNotice := { a := true, b := true, now := 1200 }
    (justFull.setEnv [{ edge := some e, host := some (portsOf (.read false false 0)) }]).env =
      { edge := some e, host := some (portsOf (.read false false 0)) } :: [] ∧
    ∃ t, exec (.update e.a e.b e.now)
      ((justFull.setEnv [{ edge := some e, host := some (portsOf (.read false false 0)) }]).setEnv []) = .next t :=
  ⟨rfl, next_of_got (by decide)⟩

/-- PlacedDecodeCodeIsPerformed: the first and the last code. -/
theorem witness_PlacedDecodeCodeIsPerformed : 0 < 16 ∧ 15 < 16 := by decide

/-- StepKeepsTheInvariant: a step that pushes into a full ring. -/
theorem witness_StepKeepsTheInvariant :
    let s := justFull.setEnv [{ edge := some { a := true, b := true, now := 1200 }, host := none }]
    s.Inv ∧ ∃ t, step s = .next t :=
  ⟨(live_of_checks (s := justFull.setEnv [{ edge := some { a := true, b := true, now := 1200 }, host := none }])
      (by decide) rfl (by decide) (by decide) (by decide) (by decide)).inv,
    next_of_got (by decide)⟩

end Sys2Proof.Tests
end

/-! SUPPORT. The scope rules (00_scope.md): the derived widths of R6 and the refusal of a parameter set that breaks R7. -/

namespace Sys2Proof

/-! The search for a least width (R6). -/

/-- The search passes over no width that holds `m` values. -/
theorem leastWidthFrom_le {m w : Nat} (fuel : Nat) {start : Nat} (hs : start ≤ w) (hw : m ≤ 2 ^ w) :
    leastWidthFrom m fuel start ≤ w := by
  induction fuel generalizing start with
  | zero => exact hs
  | succ fuel ih =>
    unfold leastWidthFrom
    split
    · exact hs
    · next htooNarrow =>
      have hne : start ≠ w := by rintro rfl; exact htooNarrow hw
      exact ih (by omega)

/-- The search ends at a width that holds `m` values when one lies within its fuel. -/
theorem le_two_pow_leastWidthFrom {m fuel start : Nat} (h : m ≤ 2 ^ (start + fuel)) :
    m ≤ 2 ^ leastWidthFrom m fuel start := by
  induction fuel generalizing start with
  | zero => exact h
  | succ fuel ih =>
    unfold leastWidthFrom
    split
    · assumption
    · exact ih (by rwa [Nat.add_right_comm])

/-- `leastWidth m` is at most the widths that hold `m` values, and those alone (R6). -/
theorem leastWidth_le_iff {m w : Nat} : leastWidth m ≤ w ↔ m ≤ 2 ^ w := by
  have hfuel : m ≤ 2 ^ (0 + m) := by simpa using Nat.lt_two_pow_self.le
  constructor
  · intro h
    exact (le_two_pow_leastWidthFrom hfuel).trans (Nat.pow_le_pow_right (by decide) h)
  · exact leastWidthFrom_le m (Nat.zero_le w)

/-- Settles O42: `CUR_W` and `CNT_W` are the least widths of `C` and of `C + 1` values. -/
theorem derivedWidthsAreTheLeast : Obligations.DerivedWidthsAreTheLeast := by
  intro p
  exact ⟨leastWidth_le_iff.mp le_rfl, fun _ => leastWidth_le_iff.mpr,
    leastWidth_le_iff.mp le_rfl, fun _ => leastWidth_le_iff.mpr⟩

end Sys2Proof

namespace Sys2Proof.Machine

/-! What an operation does around its effect, and which operations have one. -/

/-- An operation other than INIT refuses a parameter set that breaks R7, constructed or not. -/
theorem operate_of_bad_params {s : State} (hp : s.params.ok = false) (effect : State → Except Fault State) :
    operate s effect = .refused .badParameters := by
  simp [operate, hp]

/-- INIT refuses a parameter set that breaks R7. -/
theorem operateInit_of_bad_params {s : State} (hp : s.params.ok = false) (effect : State → State) :
    operateInit s effect = .refused .badParameters := by
  simp [operateInit, hp]

/-- INIT constructs the block (R150). -/
theorem exec_init (a b : Bool) (bound : BitVec 2) (s : State) :
    exec (.init a b bound) s = operateInit s (fun s => construct s a b bound) := rfl

/-- The three kinds of operation: one with an effect of its own, INIT, and a reserved opcode (R33, R68). -/
theorem exec_cases (i : Instr) :
    (i.isInit = false ∧ i.isReserved = false ∧ ∃ effect, ∀ s, exec i s = operate s effect) ∨
    (∃ a b bound, i = .init a b bound) ∨
    (i.isInit = false ∧ i.isReserved = true ∧ ∃ op, ∀ s, exec i s = .refused (.reservedOpcode op)) := by
  cases i with
  | init a b bound => exact .inr (.inl ⟨a, b, bound, rfl⟩)
  | reserved6 => exact .inr (.inr ⟨rfl, rfl, 6#3, fun _ => rfl⟩)
  | reserved7 => exact .inr (.inr ⟨rfl, rfl, 7#3, fun _ => rfl⟩)
  | _ => exact .inl ⟨rfl, rfl, _, fun _ => rfl⟩

/-- Every operation refuses a parameter set that breaks R7, a reserved opcode under its own name. -/
theorem exec_of_bad_params {s : State} (hp : s.params.ok = false) (i : Instr) :
    ∃ r, exec i s = .refused r ∧ (i.isReserved = false → r = .badParameters) := by
  rcases exec_cases i with ⟨-, -, effect, hexec⟩ | ⟨a, b, bound, rfl⟩ | ⟨-, hres, op, hexec⟩
  · exact ⟨.badParameters, by rw [hexec, operate_of_bad_params hp], fun _ => rfl⟩
  · exact ⟨.badParameters, by rw [exec_init, operateInit_of_bad_params hp], fun _ => rfl⟩
  · exact ⟨.reservedOpcode op, hexec s, fun h => absurd h (by simp [hres])⟩

/-- Settles O41: the constraints of R7 are what the guard of every operation tests. -/
theorem badParameterSetsAreRefused : Obligations.BadParameterSetsAreRefused := by
  intro s i hbad
  rw [← s.params.ok_iff, Bool.not_eq_true] at hbad
  exact exec_of_bad_params hbad i

end Sys2Proof.Machine

/-! SUPPORT. What an operation that answers leaves (10_state.md): the effect of a decode pass as `Expected.pass`, one
inversion per operation, and one for all of them. -/

namespace Sys2Proof

/-- The difference of two timestamps as a whole number (R121). -/
theorem natCast_elapsed (w : Nat) (x y : Timestamp) : (elapsed w x y : Int) = ((x : Int) - y) % 2 ^ w := by
  rw [elapsed, natCast_two_pow, Int.toNat_of_nonneg (Int.emod_nonneg _ (two_pow_pos w).ne')]

/-- A class that records is the class of a channel (R83). -/
theorem edgeClass_cases (code : BitVec 4) :
    (edgeClass code = .none ∨ edgeClass code = .dbl) ∨ edgeClass code = .ch1 ∨ edgeClass code = .ch2 := by
  revert code; decide

/-- A pass of class NONE does not move (R83). -/
theorem delta_of_none {code : BitVec 4} (h : edgeClass code = .none) : delta code = 0 := by
  revert code; decide

/-- The operation a code selects tells the code's class (R83, R84 to R99). -/
theorem edgeClass_of_decodeCode_mem (code : BitVec 4) (m now : Timestamp) :
    (decodeCode code m ∈ [Instr.dc0, .dc5, .dc10, .dc15] → edgeClass code = .none) ∧
    (decodeCode code m ∈ [Instr.dc0, .dc5, .dc10, .dc15, .dc3, .dc6, .dc9, .dc12] →
      edgeClass code = .none ∨ edgeClass code = .dbl) ∧
    (decodeCode code m ∈ [Instr.dc1 now, .dc4 now, .dc11 now, .dc14 now] → edgeClass code = .ch1) ∧
    (decodeCode code m ∈ [Instr.dc2 now, .dc7 now, .dc8 now, .dc13 now] → edgeClass code = .ch2) := by
  unfold decodeCode edgeClass
  split <;> simp_all

namespace Expected

open Machine

/-! The effect of a decode pass, field by field. -/

theorem pass_of_no_record {s : State} {code : BitVec 4} (h : edgeClass code = .none ∨ edgeClass code = .dbl)
    (now : Timestamp) : pass s code now = noRecord s (delta code) (newHistory code) := by
  rcases h with h | h <;> simp [pass, h]

theorem pass_of_ch1 {s : State} {code : BitVec 4} (h : edgeClass code = .ch1) (now : Timestamp) :
    pass s code now = push s .ch1 now (delta code) (newHistory code) := by
  simp [pass, h]

theorem pass_of_ch2 {s : State} {code : BitVec 4} (h : edgeClass code = .ch2) (now : Timestamp) :
    pass s code now = push s .ch2 now (delta code) (newHistory code) := by
  simp [pass, h]

/-- A pass records nothing, or it is the push of a single step. -/
theorem pass_cases (s : State) (code : BitVec 4) (now : Timestamp) :
    pass s code now = noRecord s (delta code) (newHistory code) ∨
    ∃ ch, (delta code = 1 ∨ delta code = -1) ∧ pass s code now = push s ch now (delta code) (newHistory code) := by
  rcases edgeClass_cases code with h | h | h
  · exact .inl (pass_of_no_record h now)
  · exact .inr ⟨.ch1, delta_of_single (.inl h), pass_of_ch1 h now⟩
  · exact .inr ⟨.ch2, delta_of_single (.inr h), pass_of_ch2 h now⟩

section
variable (s : State) (code : BitVec 4) (now : Timestamp)

@[simp] theorem pass_params : (pass s code now).params = s.params := by unfold pass; split <;> rfl
@[simp] theorem pass_built : (pass s code now).built = s.built := by unfold pass; split <;> rfl
@[simp] theorem pass_hist : (pass s code now).hist = newHistory code := by unfold pass; split <;> rfl
@[simp] theorem pass_pos : (pass s code now).pos = wrapS s.params.posW (s.pos + delta code) := by
  unfold pass; split <;> rfl
@[simp] theorem pass_poll : (pass s code now).poll = s.poll := by unfold pass; split <;> rfl
@[simp] theorem pass_rdata : (pass s code now).rdata = none := by unfold pass; split <;> rfl
@[simp] theorem pass_rate : (pass s code now).rate = none := by unfold pass; split <;> rfl
@[simp] theorem pass_env : (pass s code now).env = s.env := by unfold pass; split <;> rfl

end

/-- The timing state of a pass that records nothing is the one before (R83). -/
theorem pass_timing_of_no_record {s : State} {code : BitVec 4}
    (h : edgeClass code = .none ∨ edgeClass code = .dbl) (now : Timestamp) :
    (pass s code now).ring = s.ring ∧ (pass s code now).cursor = s.cursor ∧
    (pass s code now).unconsumed = s.unconsumed ∧ (pass s code now).timeOfLastTick = s.timeOfLastTick ∧
    (pass s code now).lastEdgeTime0 = s.lastEdgeTime0 ∧ (pass s code now).lastEdgeTime1 = s.lastEdgeTime1 := by
  rw [pass_of_no_record h]
  exact ⟨rfl, rfl, rfl, rfl, rfl, rfl⟩

/-- Only a push of channel 1 writes that channel's register (R27). -/
theorem pass_lastEdgeTime0 {s : State} {code : BitVec 4} (h : edgeClass code ≠ .ch1) (now : Timestamp) :
    (pass s code now).lastEdgeTime0 = s.lastEdgeTime0 := by
  unfold pass
  split
  case h_1 h1 => exact absurd h1 h
  all_goals rfl

/-- Only a push of channel 2 writes that channel's register (R27). -/
theorem pass_lastEdgeTime1 {s : State} {code : BitVec 4} (h : edgeClass code ≠ .ch2) (now : Timestamp) :
    (pass s code now).lastEdgeTime1 = s.lastEdgeTime1 := by
  unfold pass
  split
  case h_2 h2 => exact absurd h2 h
  all_goals rfl

/-- A pass writes no slot but slot `cursor` (R120). -/
theorem pass_get_of_ne_cursor {s : State} {j : Nat} (hj : j ≠ s.cursor) (code : BitVec 4) (now : Timestamp) :
    Memory.get (pass s code now).ring j = Memory.get s.ring j := by
  rcases pass_cases s code now with h | ⟨ch, -, h⟩ <;> rw [h]
  · rfl
  · exact Memory.get_put_other hj _

/-- A pass counts at most one push (R124). -/
theorem pass_unconsumed_cases (s : State) (code : BitVec 4) (now : Timestamp) :
    (pass s code now).unconsumed = s.unconsumed ∨
    (pass s code now).unconsumed = min (s.unconsumed + 1) s.params.c := by
  rcases pass_cases s code now with h | ⟨ch, -, h⟩ <;> rw [h]
  · exact .inl rfl
  · exact .inr rfl

end Expected

namespace Machine

variable {s t : State}

/-! A decode pass. -/

/-- A decode pass with the cursor in range leaves `Expected.pass` (R80). -/
theorem decodePass_quiet (hc : s.cursor < s.params.c) (code : BitVec 4) (now : Nat) :
    decodePass code now s.quiet = .ok (Expected.pass s code (portTime s.params now)) := by
  rcases edgeClass_cases code with h | h | h
  · rw [decodePass_of_no_record h, Expected.pass_of_no_record h]; rfl
  · rw [decodePass_of_ch1 (s := s.quiet) h hc, Expected.pass_of_ch1 h, intervalOf, natCast_elapsed]; rfl
  · rw [decodePass_of_ch2 (s := s.quiet) h hc, Expected.pass_of_ch2 h, intervalOf, natCast_elapsed]; rfl

/-- A decode pass that records answers only with the cursor in range (R41, R120). -/
theorem cursor_lt_of_decodePass {code : BitVec 4} {now : Nat} (hclass : edgeClass code = .ch1 ∨ edgeClass code = .ch2)
    (h : decodePass code now s = .ok t) : s.cursor < s.params.c := by
  by_contra hc
  rcases hclass with hclass | hclass <;> simp [decodePass, record, hclass, pushEdge, memWrite, hc] at h

/-- A decode pass that answers leaves `Expected.pass`, in every state. -/
theorem eq_pass_of_decodePass {code : BitVec 4} {now : Nat} (h : decodePass code now s.quiet = .ok t) :
    t = Expected.pass s code (portTime s.params now) := by
  rcases edgeClass_cases code with hclass | hclass
  · rw [decodePass_of_no_record hclass] at h
    rw [Expected.pass_of_no_record hclass]
    exact (Except.ok.inj h).symm
  · have hc : s.cursor < s.params.c := cursor_lt_of_decodePass (s := s.quiet) hclass h
    rw [decodePass_quiet hc] at h
    exact (Except.ok.inj h).symm

/-! What each operation leaves when it answers. -/

theorem exec_update (a b : Bool) (now : Nat) (s : State) :
    exec (.update a b now) s = operate s (decodePass (codeOf s.hist a b) now) := rfl

/-- A decode code is the pass with that code (R84 to R99). -/
theorem exec_of_isCode {i : Instr} (hi : i.isCode = true) :
    ∃ code now, (∀ s, exec i s = operate s (decodePass code now)) ∧ i = decodeCode code now := by
  cases i with
  | nop | init | update | read | write | rate | reserved6 | reserved7 => cases hi
  | _ => exact ⟨_, _, fun _ => rfl, rfl⟩

theorem operate_decodePass_next {code : BitVec 4} {now : Nat} (h : operate s (decodePass code now) = .next t) :
    s.params.ok = true ∧ s.built = true ∧ t = Expected.pass s code (portTime s.params now) := by
  obtain ⟨hp, hb, hpass⟩ := operate_next h
  exact ⟨hp, hb, eq_pass_of_decodePass hpass⟩

/-- UPDATE leaves the pass with the code it forms (R80). -/
theorem exec_update_next {a b : Bool} {now : Nat} (h : exec (.update a b now) s = .next t) :
    s.built = true ∧ t = Expected.pass s (codeOf s.hist a b) (portTime s.params now) :=
  (operate_decodePass_next (exec_update a b now s ▸ h)).2

/-- READ leaves the position on port `rdata`, of the state as it was with `poll = 0` and of what UPDATE leaves with
`poll = 1` (R110). -/
theorem exec_read_next {a b : Bool} {now : Nat} (h : exec (.read a b now) s = .next t) :
    (s.poll = false ∧ t = s.quiet.setRdata s.pos) ∨
    (s.poll = true ∧ ∃ u, exec (.update a b now) s = .next u ∧ t = u.setRdata u.pos) := by
  obtain ⟨hp, hb, hbody⟩ := operate_next (effect := readBody a b now) h
  cases hpoll : s.poll with
  | false =>
    simp only [readBody, pollFirst, State.quiet_poll, hpoll, Bool.false_eq_true, if_false] at hbody
    exact .inl ⟨rfl, (Except.ok.inj hbody).symm⟩
  | true =>
    simp only [readBody, pollFirst, State.quiet_poll, hpoll, if_true] at hbody
    split at hbody
    · cases hbody
    · next u hu =>
      refine .inr ⟨rfl, u, ?_, (Except.ok.inj hbody).symm⟩
      rw [exec_update, operate_of_built hp hb]
      exact congrArg finish hu

/-- WRITE leaves the value of its port in `pos` (R111). -/
theorem exec_write_next {x : Int} (h : exec (.write x) s = .next t) :
    t = s.quiet.setPos (portPosition s.params x) := by
  obtain ⟨-, -, hbody⟩ := operate_next (effect := writeBody x) h
  exact (Except.ok.inj hbody).symm

/-- RATE leaves its result on port `rate` (R130). -/
theorem exec_rate_next {now : Nat} (h : exec (.rate now) s = .next t) :
    ∃ q, exactRate s (portTime s.params now) = .ok q ∧
      t = s.quiet.setRate { exact := q, word := rateEncode q } := by
  obtain ⟨-, -, hbody⟩ := operate_next (effect := rateBody now) h
  unfold rateBody at hbody
  split at hbody
  · cases hbody
  · next q hq =>
    exact ⟨q, (exactRate_congr (s := s) (t := s.quiet) rfl rfl rfl rfl rfl _).trans hq, (Except.ok.inj hbody).symm⟩

/-- NOP leaves the state without a result (R151). -/
theorem exec_nop_next (h : exec .nop s = .next t) : t = s.quiet := by
  obtain ⟨-, -, hbody⟩ := operate_next (effect := nopBody) h
  exact (Except.ok.inj hbody).symm

/-- INIT with a good parameter set constructs the block (R150). -/
theorem exec_init_of_ok (hp : s.params.ok = true) (a b : Bool) (bound : BitVec 2) :
    exec (.init a b bound) s = .next (construct s a b bound) := by
  simp [exec_init, operateInit, hp]

theorem exec_init_next {a b : Bool} {bound : BitVec 2} (h : exec (.init a b bound) s = .next t) :
    s.params.ok = true ∧ t = construct s a b bound := by
  cases hp : s.params.ok with
  | false => simp [exec_init, operateInit_of_bad_params hp] at h
  | true => exact ⟨rfl, Host.Outcome.next.inj (h.symm.trans (exec_init_of_ok hp a b bound))⟩

/-- The states an operation other than INIT can leave (R36), by what it does: a decode pass, READ without and with one,
WRITE, RATE and NOP. -/
inductive Effect (s : State) : State → Prop
  | pass (code : BitVec 4) (now : Nat) : Effect s (Expected.pass s code (portTime s.params now))
  | read : Effect s (s.quiet.setRdata s.pos)
  | readAfterPass (code : BitVec 4) (now : Nat) :
      Effect s ((Expected.pass s code (portTime s.params now)).setRdata
        (Expected.pass s code (portTime s.params now)).pos)
  | write (x : Int) : Effect s (s.quiet.setPos (portPosition s.params x))
  | rate (now : Nat) (q : Rat) (hq : exactRate s (portTime s.params now) = .ok q) :
      Effect s (s.quiet.setRate { exact := q, word := rateEncode q })
  | nop : Effect s s.quiet

/-- What an operation other than INIT can do: it answers in a constructed block only, with one of the effects. -/
theorem exec_next_of_not_init {i : Instr} (hi : i.isInit = false) (h : exec i s = .next t) :
    s.built = true ∧ Effect s t := by
  have hbuilt : s.built = true := by
    rcases exec_cases i with ⟨-, -, effect, hexec⟩ | ⟨a, b, bound, rfl⟩ | ⟨-, -, op, hexec⟩
    · exact (operate_next (hexec s ▸ h)).2.1
    · cases hi
    · cases (hexec s).symm.trans h
  refine ⟨hbuilt, ?_⟩
  cases hcode : i.isCode with
  | true =>
    obtain ⟨code, now, hexec, -⟩ := exec_of_isCode hcode
    obtain ⟨-, -, rfl⟩ := operate_decodePass_next (hexec s ▸ h)
    exact .pass code now
  | false =>
    cases i with
    | init => cases hi
    | nop => obtain rfl := exec_nop_next h; exact .nop
    | update a b now => obtain ⟨-, rfl⟩ := exec_update_next h; exact .pass _ now
    | read a b now =>
      rcases exec_read_next h with ⟨-, rfl⟩ | ⟨-, u, hu, rfl⟩
      · exact .read
      · obtain ⟨-, rfl⟩ := exec_update_next hu
        exact .readAfterPass _ now
    | write x => obtain rfl := exec_write_next h; exact .write x
    | rate now => obtain ⟨q, hq, rfl⟩ := exec_rate_next h; exact .rate now q hq
    | reserved6 | reserved7 => cases h
    | _ => cases hcode

/-- What an operation that answers can leave: INIT the constructed block, any other one of the effects. -/
theorem exec_next {i : Instr} (h : exec i s = .next t) :
    (∃ a b bound, s.params.ok = true ∧ i = .init a b bound ∧ t = construct s a b bound) ∨
    (i.isInit = false ∧ s.built = true ∧ Effect s t) := by
  cases hi : i.isInit with
  | false => exact .inr ⟨rfl, exec_next_of_not_init hi h⟩
  | true =>
    rcases exec_cases i with ⟨hno, -⟩ | ⟨a, b, bound, rfl⟩ | ⟨hno, -⟩
    · exact absurd hi (by simp [hno])
    · obtain ⟨hp, ht⟩ := exec_init_next h
      exact .inl ⟨a, b, bound, hp, rfl, ht⟩
    · exact absurd hi (by simp [hno])

end Machine
end Sys2Proof

/-! SUPPORT. The bound of R135 on what RATE answers: each step credited adds at most `2 / Q`, and the budget holds `N`
steps. -/

namespace Sys2Proof.Machine

variable {s t : State}

/-- The walk stays in its budget, and its velocity at most `2 / Q` for each step credited (R135, R136). -/
structure Walk.Bounded (p : Params) (w : Walk) : Prop where
  cum : w.cum ≤ p.n
  acc : |w.acc| ≤ 2 * (w.cum : Rat) / p.q

/-- An entry of at least `Q` contributes at most `2 / Q` for each step (R133). -/
theorem abs_contribution_le {q : Nat} {iv : Interval} (hq : 1 ≤ q) (hiv : q ≤ iv.natAbs) (steps : Nat) :
    |contribution steps iv| ≤ 2 * (steps : Rat) / q := by
  have hqpos : (0 : Rat) < q := by exact_mod_cast hq
  have hle : (q : Rat) ≤ |(iv : Rat)| := by
    rw [← Int.cast_abs, Int.abs_eq_natAbs]
    exact_mod_cast hiv
  rw [contribution, abs_div, abs_of_nonneg (by positivity), mul_comm (steps : Rat)]
  exact div_le_div_of_nonneg_left (by positivity) hqpos hle

/-- Crediting steps of one entry within the budget keeps the bound. -/
theorem Walk.Bounded.credit {p : Params} {w : Walk} (hw : w.Bounded p) {iv : Interval} {steps : Nat} (hq : 1 ≤ p.q)
    (hiv : p.q ≤ iv.natAbs) (hn : w.cum + steps ≤ p.n) (visited : Nat) :
    Walk.Bounded p { acc := w.acc + contribution steps iv, cum := w.cum + steps, visited := visited } where
  cum := hn
  acc := calc
    |w.acc + contribution steps iv| ≤ |w.acc| + |contribution steps iv| := abs_add_le _ _
    _ ≤ 2 * (w.cum : Rat) / p.q + 2 * (steps : Rat) / p.q := add_le_add hw.acc (abs_contribution_le hq hiv steps)
    _ = 2 * ((w.cum + steps : Nat) : Rat) / p.q := by push_cast; ring

/-- One entry visited keeps the bound, whether the walk leaves the loop or not (R133, R134, R136). -/
theorem creditEntry_bounded {p : Params} {w : Walk} (hq : 1 ≤ p.q) (hw : w.Bounded p) (iv : Interval) :
    (creditEntry p iv w).1.Bounded p := by
  have long_of_steps (h : stepsOf p iv ≠ 0) : p.q ≤ iv.natAbs := by
    by_contra hlt
    exact h (Nat.div_eq_of_lt (not_le.mp hlt))
  unfold creditEntry
  split
  · exact ⟨hw.cum, hw.acc⟩
  · next hsteps =>
    split
    · have hfull := hw.credit (steps := p.n - w.cum) hq (long_of_steps hsteps)
        (by have := hw.cum; omega) (w.visited + 1)
      rwa [Nat.add_sub_cancel' hw.cum] at hfull
    · next hroom => exact hw.credit hq (long_of_steps hsteps) (not_lt.mp hroom) _

/-- The walk of RATE keeps the bound (R130). -/
theorem rateWalk_bounded (hq : 1 ≤ s.params.q) {left k : Nat} {w w' : Walk} (hw : w.Bounded s.params)
    (h : rateWalk s left k w = .ok w') : w'.Bounded s.params := by
  induction left generalizing k w with
  | zero => exact Except.ok.inj h ▸ hw
  | succ left ih =>
    unfold rateWalk at h
    split at h
    · cases h
    · next iv _ =>
      have hcredit := creditEntry_bounded hq hw iv
      split at h
      · next hentry => rw [hentry] at hcredit; exact Except.ok.inj h ▸ hcredit
      · next hentry => rw [hentry] at hcredit; exact ih hcredit h

/-- R135: the magnitude of what RATE answers is at most `2 / Q`. -/
theorem abs_exactRate_le (hp : s.params.ok = true) {now : Timestamp} {q : Rat} (h : exactRate s now = .ok q) :
    |q| ≤ 2 / (s.params.q : Rat) := by
  obtain ⟨-, hq, -⟩ := s.params.ok_iff.mp hp
  have hn : (0 : Rat) < s.params.n := by exact_mod_cast Params.n_pos hp
  have hzero : |(0 : Rat)| ≤ 2 / (s.params.q : Rat) := by rw [abs_zero]; positivity
  unfold exactRate at h
  split at h
  · exact Except.ok.inj h ▸ hzero
  · split at h
    · exact Except.ok.inj h ▸ hzero
    · split at h
      · cases h
      · next w hwalk =>
        have hw : w.Bounded s.params := rateWalk_bounded hq ⟨Nat.zero_le _, by simp⟩ hwalk
        have hcum : (w.cum : Rat) ≤ s.params.n := by exact_mod_cast hw.cum
        obtain rfl := Except.ok.inj h
        rw [abs_div, abs_of_pos hn, div_le_iff₀ hn]
        calc |w.acc| ≤ 2 * (w.cum : Rat) / s.params.q := hw.acc
          _ ≤ 2 * (s.params.n : Rat) / s.params.q := by gcongr
          _ = 2 / (s.params.q : Rat) * s.params.n := by ring

end Sys2Proof.Machine

/-! SUPPORT. The invariant of the machine (10_state.md R35): what keeps it outside the timing state, a push, and from
both every operation and every step. -/

namespace Sys2Proof.Machine

variable {s t : State}

/-- What lies outside the timing state may change within its ranges; the timing facts of R35 do not speak of it. -/
theorem State.Inv.outside_timing (h : s.Inv) (hist : BitVec 2) {pos : Position} (hpos : SFits s.params.posW pos)
    {rdata : Option Position} (hrdata : ∀ z, rdata = some z → SFits s.params.posW z) {rate : Option RateResult}
    (hrate : ∀ r, rate = some r → r.word = rateEncode r.exact ∧ |r.exact| ≤ 2 / (s.params.q : Rat))
    (env : List Offer) :
    State.Inv { s with hist := hist, pos := pos, rdata := rdata, rate := rate, env := env } where
  params := h.params
  range := { h.range with pos := hpos, rdata := hrdata }
  timing := { h.timing with }
  rate := hrate

/-- The position register is never narrower than one bit (R7). -/
theorem State.Inv.posW_pos (h : s.Inv) : 1 ≤ s.params.posW := by
  obtain ⟨-, -, -, -, hposW, -⟩ := s.params.ok_iff.mp h.params
  omega

theorem State.Inv.quiet (h : s.Inv) : s.quiet.Inv :=
  h.outside_timing s.hist h.range.pos (by simp) (by simp) s.env

theorem State.Inv.setEnv (h : s.Inv) (env : List Offer) : (s.setEnv env).Inv :=
  h.outside_timing s.hist h.range.pos h.range.rdata h.rate env

/-- READ puts the position on the port, which is as wide as the register (R110). -/
theorem State.Inv.setRdata_pos (h : s.Inv) : (s.setRdata s.pos).Inv :=
  h.outside_timing s.hist h.range.pos (fun _ hz => Option.some.inj hz ▸ h.range.pos) h.rate s.env

theorem State.Inv.setPos (h : s.Inv) {z : Position} (hz : SFits s.params.posW z) : (s.setPos z).Inv :=
  h.outside_timing s.hist hz h.range.rdata h.rate s.env

theorem State.Inv.setRate (h : s.Inv) {q : Rat} (hq : |q| ≤ 2 / (s.params.q : Rat)) :
    (s.setRate { exact := q, word := rateEncode q }).Inv :=
  h.outside_timing s.hist h.range.pos h.range.rdata (by rintro _ ⟨⟩; exact ⟨rfl, hq⟩) s.env

/-- The signed interval of a single step fits its slot (R28, R122). -/
theorem natAbs_interval_lt {d : Int} (hd : d = 1 ∨ d = -1) (w : Nat) (x y : Timestamp) :
    (d * (((x : Int) - y) % 2 ^ w)).natAbs < 2 ^ w := by
  have hfits := elapsed_fits w x y
  rw [← natCast_elapsed]
  rcases hd with rfl | rfl <;> simpa using hfits

/-- A push keeps the invariant: `cursor` and `unconsumed` move together until the ring is full, and the slot written is
the one `cursor` named (R120, R124). -/
theorem State.Inv.push (h : s.Inv) (ch : Channel) {now : Timestamp} (hnow : UFits s.params.tW now) {d : Int}
    (hd : d = 1 ∨ d = -1) (hist : BitVec 2) : (Expected.push s ch now d hist).Inv := by
  have hcursor := h.range.cursor
  have hunconsumed := h.range.unconsumed
  have hcounted := h.timing.counted
  refine ⟨h.params, ?range, ?timing, by simp [State.RateInv, Expected.push]⟩
  case range =>
    refine
      { pos := wrapS_fits h.posW_pos _
        cursor := Nat.mod_lt _ (by omega)
        unconsumed := min_le_right _ _
        timeOfLastTick := hnow
        lastEdgeTime0 := by cases ch; exacts [hnow, h.range.lastEdgeTime0]
        lastEdgeTime1 := by cases ch; exacts [h.range.lastEdgeTime1, hnow]
        slots := fun i => ?_
        rdata := by simp [Expected.push] }
    by_cases hi : i = s.cursor
    · subst hi
      simp only [Expected.push, Memory.get_put_same h.timing.ring]
      exact natAbs_interval_lt hd ..
    · simp only [Expected.push, Memory.get_put_other hi]
      exact h.range.slots i
  case timing =>
    refine
      { ring := Memory.put_wf h.timing.ring _ _
        counted := fun hroom => ?_
        written := fun i hi => ?_
        nothingYet := fun hnone => ?_
        lastTick := fun _ => by cases ch; exacts [.inl rfl, .inr rfl] }
    · simp only [Expected.push] at hroom ⊢
      rw [Nat.mod_eq_of_lt (by omega)]
      omega
    · simp only [Expected.push] at hi ⊢
      by_cases hcur : i = s.cursor
      · omega
      · rw [Memory.get_put_other hcur] at hi
        have := h.timing.written i hi
        omega
    · simp only [Expected.push] at hnone
      omega

/-- A decode pass keeps the invariant, whatever its class (R80). -/
theorem State.Inv.pass (h : s.Inv) (code : BitVec 4) {now : Timestamp} (hnow : UFits s.params.tW now) :
    (Expected.pass s code now).Inv := by
  rcases Expected.pass_cases s code now with heq | ⟨ch, hd, heq⟩ <;> rw [heq]
  · exact h.outside_timing _ (wrapS_fits h.posW_pos _) (by simp) (by simp) s.env
  · exact h.push ch hnow hd _

/-- INIT meets the invariant from any state with a good parameter set (R34, R150). -/
theorem construct_live (hp : s.params.ok = true) (a b : Bool) (bound : BitVec 2) : (construct s a b bound).Live := by
  obtain ⟨hc, -, -, -, hposW, htW, -⟩ := s.params.ok_iff.mp hp
  have hpow := Nat.two_pow_pos s.params.tW
  refine ⟨rfl, hp, ?range, ?timing, by simp [State.RateInv, construct]⟩
  case range =>
    exact ⟨⟨by simp [construct], two_pow_pos _⟩, hc, Nat.zero_le _, hpow, hpow, hpow, fun _ => hpow,
      by simp [construct]⟩
  case timing =>
    exact ⟨rfl, fun _ => rfl, fun i hi => absurd rfl hi, fun _ => ⟨rfl, rfl, rfl⟩, fun _ => .inl rfl⟩

/-- Every effect of an operation keeps the invariant. -/
theorem Effect.inv (h : s.Inv) (heffect : Effect s t) : t.Inv := by
  cases heffect with
  | pass code now => exact h.pass code (portTime_fits _ now)
  | read => exact h.quiet.setRdata_pos
  | readAfterPass code now => exact (h.pass code (portTime_fits _ now)).setRdata_pos
  | write x => exact h.quiet.setPos (wrapS_fits h.posW_pos x)
  | rate now q hq => exact h.quiet.setRate (abs_exactRate_le h.params hq)
  | nop => exact h.quiet

/-- Every operation that answers keeps the invariant (R35). -/
theorem exec_inv {i : Instr} (h : s.Inv) (hexec : exec i s = .next t) : t.Inv := by
  rcases exec_next hexec with ⟨a, b, bound, hp, -, rfl⟩ | ⟨-, -, heffect⟩
  · exact (construct_live hp a b bound).inv
  · exact heffect.inv h

/-- Settles O56: a step is an operation on the state whose offers have moved on. -/
theorem stepKeepsTheInvariant : Obligations.StepKeepsTheInvariant := by
  intro s t h hstep
  exact exec_inv (h.setEnv _) hstep

/-- Settles O57: the state after reset is what INIT makes of the powered-on block. -/
theorem resetIsLive : Obligations.ResetIsLive :=
  construct_live (s := State.powerOn) rfl false false 3#2

/-- Settles O58, by INIT's own equation. -/
theorem resetIsInitOfPowerOn : Obligations.ResetIsInitOfPowerOn :=
  exec_init_of_ok (s := State.powerOn) rfl false false 3#2

end Sys2Proof.Machine

/-! SUPPORT. The statements about what operations leave unchanged (10_state.md R21, R23, R25, R33, R36), from the
inversions above. -/

namespace Sys2Proof.Machine

variable {s t : State}

/-- Before the first INIT an operation other than INIT is refused (R33). -/
theorem operate_of_not_built (hp : s.params.ok = true) (hb : s.built = false)
    (effect : State → Except Fault State) : operate s effect = .refused .beforeInit := by
  simp [operate, hp, hb]

/-- Settles O40: the three kinds of operation, each before the first INIT. -/
theorem beforeInitOnlyInitHasAMeaning : Obligations.BeforeInitOnlyInitHasAMeaning := by
  intro s i hp hb
  rcases exec_cases i with ⟨hinit, -, effect, hexec⟩ | ⟨a, b, bound, rfl⟩ | ⟨hinit, hres, op, hexec⟩
  · exact ⟨fun _ => ⟨.beforeInit, by rw [hexec, operate_of_not_built hp hb], fun _ => rfl⟩, by simp [hinit]⟩
  · exact ⟨nofun, fun _ => ⟨_, exec_init_of_ok hp a b bound, rfl⟩⟩
  · exact ⟨fun _ => ⟨.reservedOpcode op, hexec s, by simp [hres]⟩, by simp [hinit]⟩

/-- UPDATE loads the pair it decodes (R63). -/
theorem exec_update_hist {a b : Bool} {now : Nat} (h : exec (.update a b now) s = .next t) : t.hist = pairOf a b := by
  obtain ⟨-, rfl⟩ := exec_update_next h
  rw [Expected.pass_hist, newHistory_codeOf]

/-- Settles O10: INIT and every pass load the pair; a READ runs a pass with `poll = 1` alone. -/
theorem histHoldsTheLatestPair : Obligations.HistHoldsTheLatestPair := by
  intro s t a b now bound
  refine ⟨fun h => ?_, exec_update_hist, fun h => ?_⟩
  · obtain ⟨-, rfl⟩ := exec_init_next h
    rfl
  · rcases exec_read_next h with ⟨hpoll, rfl⟩ | ⟨hpoll, u, hu, rfl⟩
    · simp [hpoll]
    · simp [hpoll, exec_update_hist hu]

/-- No effect lowers `unconsumed`, and none counts more than one push, saturating at `C` (R25, R124). -/
theorem Effect.unconsumed_cases (heffect : Effect s t) :
    t.unconsumed = s.unconsumed ∨ t.unconsumed = min (s.unconsumed + 1) s.params.c := by
  cases heffect with
  | pass code now => exact Expected.pass_unconsumed_cases s code _
  | readAfterPass code now => exact Expected.pass_unconsumed_cases s code _
  | read | write | rate | nop => exact .inl rfl

/-- No effect writes the parameters, the mode, the offers, or that the block is constructed (R23, R32). -/
theorem Effect.keeps (heffect : Effect s t) :
    t.params = s.params ∧ t.env = s.env ∧ t.built = s.built ∧ t.poll = s.poll := by
  cases heffect <;> simp

/-- Settles O25, by the two ways `unconsumed` can end. -/
theorem unconsumedOnlyCountsUp : Obligations.UnconsumedOnlyCountsUp := by
  intro s t i hinv hi h
  obtain ⟨-, heffect⟩ := exec_next_of_not_init hi h
  have hle := hinv.range.unconsumed
  rw [heffect.keeps.1]
  rcases heffect.unconsumed_cases with hu | hu <;> omega

/-- Settles O45: INIT by its table, every other operation by what its effect keeps. -/
theorem onlyInitWritesPoll : Obligations.OnlyInitWritesPoll := by
  intro s t i h
  rcases exec_next h with ⟨a, b, bound, -, rfl, rfl⟩ | ⟨-, hbuilt, heffect⟩
  · exact ⟨rfl, rfl, rfl, nofun⟩
  · obtain ⟨hparams, henv, hkept, hpoll⟩ := heffect.keeps
    exact ⟨hparams, henv, hkept.trans hbuilt, fun _ => hpoll⟩

/-- Settles O46, by the fields of the pass UPDATE leaves. -/
theorem updateFrame : Obligations.UpdateFrame := by
  intro s t a b now h
  obtain ⟨-, rfl⟩ := exec_update_next h
  refine ⟨fun j hj => Expected.pass_get_of_ne_cursor hj _ _, fun h1 => Expected.pass_lastEdgeTime0 h1 _,
    fun h2 => Expected.pass_lastEdgeTime1 h2 _, fun hclass => ?_, by simp⟩
  obtain ⟨hring, hcursor, hunconsumed, htick, -⟩ := Expected.pass_timing_of_no_record hclass (portTime s.params now)
  exact ⟨fun j => by rw [hring], hcursor, hunconsumed, htick⟩

/-- Settles O47, by the fields of the pass with the code; the operation tells the code's class. -/
theorem decodeCodesFrame : Obligations.DecodeCodesFrame := by
  intro s t i now h hcode
  obtain ⟨code, m, hexec, rfl⟩ := exec_of_isCode hcode
  obtain ⟨-, -, rfl⟩ := operate_decodePass_next (hexec s ▸ h)
  obtain ⟨hnone, hquiet, hch1, hch2⟩ := edgeClass_of_decodeCode_mem code m now
  refine ⟨fun j hj => Expected.pass_get_of_ne_cursor hj _ _, fun hi => ?_, fun hi => ?_, fun hi => ?_,
    fun hi hinv => ?_, by simp⟩
  · obtain ⟨hring, htiming⟩ := Expected.pass_timing_of_no_record (hquiet hi) (portTime s.params m)
    exact ⟨fun j => by rw [hring], htiming⟩
  · exact Expected.pass_lastEdgeTime1 (by simp [hch1 hi]) _
  · exact Expected.pass_lastEdgeTime0 (by simp [hch2 hi]) _
  · rw [Expected.pass_pos, delta_of_none (hnone hi), add_zero, wrapS_of_fits hinv.posW_pos hinv.range.pos]

/-- Clearing the port after READ gives back a state that showed nothing there (R67). -/
theorem State.setRdata_cleared (h : s.rdata = none) (z : Position) : { s.setRdata z with rdata := none } = s := by
  cases s
  cases h
  rfl

/-- Settles O48: READ is a result on the port, of the state or of what UPDATE leaves. -/
theorem readFrame : Obligations.ReadFrame := by
  intro s t a b now h
  rcases exec_read_next h with ⟨hpoll, rfl⟩ | ⟨hpoll, u, hu, rfl⟩
  · exact ⟨rfl, rfl, fun _ => rfl, by simp [hpoll]⟩
  · obtain ⟨-, rfl⟩ := exec_update_next hu
    refine ⟨by simp, by simp, by simp [hpoll], fun _ => ?_⟩
    rw [State.setRdata_cleared (Expected.pass_rdata ..)]
    exact hu

/-- Settles O49, by the state each of the three leaves. -/
theorem writeRateNopFrame : Obligations.WriteRateNopFrame := by
  intro s t i x now h hi
  simp only [List.mem_cons, List.not_mem_nil, or_false] at hi
  rcases hi with rfl | rfl | rfl
  · obtain rfl := exec_write_next h
    simp
  · obtain ⟨q, -, rfl⟩ := exec_rate_next h
    simp
  · obtain rfl := exec_nop_next h
    simp

end Sys2Proof.Machine

/-! SUPPORT. The step (20_memory.md R48, 60_exceptions.md R164): which operation an offer presents, what stays ready
after it, and that a command's ports decode to the command. -/

namespace Sys2Proof

/-- A command is read back from the ports it is presented on (R66). -/
theorem decodePorts_portsOf {i : Instr} (hi : i.isCode = false) : decodePorts (portsOf i) = i := by
  cases i with
  | nop | init | update | read | write | rate | reserved6 | reserved7 => rfl
  | _ => cases hi

@[simp] theorem decodePorts_idle : decodePorts Ports.idle = .nop := decodePorts_portsOf (i := .nop) rfl

namespace Machine

/-- An edge notification presents an UPDATE (R162, R163). -/
@[simp] theorem decodePorts_edgeNotice (e : EdgeNotice) : decodePorts e.ports = .update e.a e.b e.now :=
  decodePorts_portsOf rfl

variable {s : State}

@[simp] theorem State.setEnv_self (s : State) : s.setEnv s.env = s := rfl

/-! A step, for each form of what the agents have ready (R164). -/

/-- A step performs the operation presented and leaves the rest ready (R48). -/
theorem step_of_present {io : Ports} {rest : List Offer} (h : present s.env = (io, rest)) :
    step s = exec (decodePorts io) (s.setEnv rest) := by
  rw [step, h]

theorem step_of_host {io : Ports} {rest : List Offer} (h : s.env = { edge := none, host := some io } :: rest) :
    step s = exec (decodePorts io) (s.setEnv rest) :=
  step_of_present (by rw [h, present])

theorem step_of_edge {e : EdgeNotice} {rest : List Offer} (h : s.env = { edge := some e, host := none } :: rest) :
    step s = exec (.update e.a e.b e.now) (s.setEnv rest) := by
  rw [step_of_present (by rw [h, present]), decodePorts_edgeNotice]

/-- With both ready the UPDATE goes first and the host's operation stays ready (R164). -/
theorem step_of_edge_and_host {e : EdgeNotice} {io : Ports} {rest : List Offer}
    (h : s.env = { edge := some e, host := some io } :: rest) :
    step s = exec (.update e.a e.b e.now) (s.setEnv ({ edge := none, host := some io } :: rest)) := by
  rw [step_of_present (by rw [h, present]), decodePorts_edgeNotice]

theorem step_of_empty_offer {rest : List Offer} (h : s.env = { edge := none, host := none } :: rest) :
    step s = exec .nop (s.setEnv rest) := by
  rw [step_of_present (by rw [h, present]), decodePorts_idle]

theorem step_of_no_offers (h : s.env = []) : step s = exec .nop s := by
  rw [step_of_present (by rw [h, present]), decodePorts_idle, ← h, State.setEnv_self]

/-- An operation the host offers is performed at the very next step, from the state it was offered in. -/
theorem step_offerHost (s : State) (io : Ports) : step (s.offerHost io) = exec (decodePorts io) s :=
  step_of_host (s := s.offerHost io) rfl

/-- Settles O53, by what each form of offer presents; a command offered is read back from its ports. -/
theorem stepPerformsThePresentedOperation : Obligations.StepPerformsThePresentedOperation := by
  intro s e io rest i
  refine ⟨step_of_host, step_of_edge, step_of_edge_and_host, step_of_empty_offer, step_of_no_offers, fun hi => ?_⟩
  rw [step_offerHost, decodePorts_portsOf hi]

end Machine

end Sys2Proof

/-! SUPPORT. Encoding (30_encoding.md): the operation each opcode selects, decoding of what the encoder writes, the
ports an operation reads, and a decode code as the pass that forms it. -/

namespace Sys2Proof

/-! The operation on the ports, by opcode (R66). -/

section
variable {io : Ports}

theorem decodePorts_of_op0 (h : io.op = 0#3) : decodePorts io = .nop := by simp [decodePorts, h]
theorem decodePorts_of_op1 (h : io.op = 1#3) : decodePorts io = .init io.a io.b io.bound := by simp [decodePorts, h]
theorem decodePorts_of_op2 (h : io.op = 2#3) : decodePorts io = .update io.a io.b io.now := by simp [decodePorts, h]
theorem decodePorts_of_op3 (h : io.op = 3#3) : decodePorts io = .read io.a io.b io.now := by simp [decodePorts, h]
theorem decodePorts_of_op4 (h : io.op = 4#3) : decodePorts io = .write io.wdata := by simp [decodePorts, h]
theorem decodePorts_of_op5 (h : io.op = 5#3) : decodePorts io = .rate io.now := by simp [decodePorts, h]
theorem decodePorts_of_op6 (h : io.op = 6#3) : decodePorts io = .reserved6 := by simp [decodePorts, h]
theorem decodePorts_of_op7 (h : io.op = 7#3) : decodePorts io = .reserved7 := by simp [decodePorts, h]

end

/-- The eight opcodes (R66, R68). -/
theorem opcode_cases (op : BitVec 3) :
    op = 0#3 ∨ op = 1#3 ∨ op = 2#3 ∨ op = 3#3 ∨ op = 4#3 ∨ op = 5#3 ∨ op = 6#3 ∨ op = 7#3 := by
  revert op; decide

/-! Operand values read back from the number that carries them (R71). -/

theorem numOf_lt (x : Bool) : numOf x < 2 := by cases x <;> decide

theorem decide_numOf (x : Bool) : decide (numOf x = 1) = x := by cases x <;> rfl

section
variable (a b : Bool) (above : Nat)

@[simp] theorem bitOf_zero_samplesThen : bitOf (samplesThen a b above) 0 = a := by
  have hbit : samplesThen a b above / 2 ^ 0 % 2 = numOf a := by
    have ha := numOf_lt a
    unfold samplesThen; omega
  rw [bitOf, hbit, decide_numOf]

@[simp] theorem bitOf_one_samplesThen : bitOf (samplesThen a b above) 1 = b := by
  have hbit : samplesThen a b above / 2 ^ 1 % 2 = numOf b := by
    have ha := numOf_lt a
    have hb := numOf_lt b
    unfold samplesThen; omega
  rw [bitOf, hbit, decide_numOf]

@[simp] theorem samplesThen_div_four : samplesThen a b above / 4 = above := by
  have ha := numOf_lt a
  have hb := numOf_lt b
  unfold samplesThen; omega

end

/-- A number that fits its operation's length decodes to the operation of its opcode and operands. -/
theorem decodeFrame_of_fits {p : Params} {w : Nat} (h : (Encoded.frame w).fits p = true) :
    decodeFrame p w = .ok (operationOf p (w % 8) (w / 8)) := by
  have hw : w < 8 * 2 ^ operandBits p (w % 8) := by simpa [Encoded.fits, Nat.pow_add] using h
  exact if_pos (Nat.div_lt_of_lt_mul hw)

/-- Opcode and operands are read back from a command's number. -/
theorem decode_frameOf {p : Params} {op operands : Nat} (hop : op < 8)
    (h : (Encoded.frame (frameOf op operands)).fits p = true) :
    decode p (.frame (frameOf op operands)) = .ok (operationOf p op operands) := by
  have hopcode : frameOf op operands % 8 = op := by unfold frameOf; omega
  have hoperands : frameOf op operands / 8 = operands := by unfold frameOf; omega
  rw [decode, decodeFrame_of_fits h, hopcode, hoperands]

/-- A decode code is read back from its four bits and the clock value beside them (R61). -/
theorem decode_encode_of_isCode (p : Params) {i : Instr} (hi : i.isCode = true) : decode p (encode p i) = .ok i := by
  cases i with
  | nop | init | update | read | write | rate | reserved6 | reserved7 => cases hi
  | _ => rfl

/-- A command whose operands fit their ports is read back from its number: the number fits (`EncodingFits`), so its
opcode and each operand value come back. -/
theorem decode_encode_of_command {p : Params} (hp : p.ok = true) {i : Instr} (hi : i.isCode = false)
    (hwf : i.wf p = true) : decode p (encode p i) = .ok i := by
  cases i with
  | nop => exact decode_frameOf (by decide) (Laws.EncodingFits.nop p hp hwf)
  | init a b bound =>
    rw [encode, decode_frameOf (by decide) (Laws.EncodingFits.init a b bound p hp hwf)]
    simp [operationOf]
  | update a b now =>
    rw [encode, decode_frameOf (by decide) (Laws.EncodingFits.update a b now p hp hwf)]
    simp [operationOf]
  | read a b now =>
    rw [encode, decode_frameOf (by decide) (Laws.EncodingFits.read a b now p hp hwf)]
    simp [operationOf]
  | write wdata =>
    obtain ⟨-, -, -, -, hposW, -⟩ := p.ok_iff.mp hp
    rw [encode, decode_frameOf (by decide) (Laws.EncodingFits.write wdata p hp hwf)]
    simp only [operationOf, wrapS_patternOf (by omega : 1 ≤ p.posW) (of_decide_eq_true hwf)]
  | rate now => exact decode_frameOf (by decide) (Laws.EncodingFits.rate now p hp hwf)
  | reserved6 => exact decode_frameOf (by decide) (Laws.EncodingFits.reserved6 p hp hwf)
  | reserved7 => exact decode_frameOf (by decide) (Laws.EncodingFits.reserved7 p hp hwf)
  | _ => cases hi

/-- Settles O50, by the two formats. -/
theorem decodeOfEncodeIsTheOperation : Obligations.DecodeOfEncodeIsTheOperation := by
  intro p i hp hwf
  cases hi : i.isCode with
  | true => exact decode_encode_of_isCode p hi
  | false => exact decode_encode_of_command hp hi hwf

/-- Settles O51: each word decodes by evaluation. -/
theorem wordsOfTheSpecDecode : Obligations.WordsOfTheSpecDecode := by
  unfold Obligations.WordsOfTheSpecDecode
  decide

/-! A decode code and the presentation that forms it (R61, R62). -/

/-- A code is formed by its bits 1..0 as history and its bits 2 and 3 as samples (R61, R62). -/
theorem codeOf_bits (code : BitVec 4) : codeOf (code.setWidth 2) (code.getLsbD 2) (code.getLsbD 3) = code := by
  revert code; decide

/-- A decode code at clock value 0 is presented by the UPDATE whose samples are its bits 2 and 3 (R61). -/
theorem decodePorts_portsOf_decodeCode (code : BitVec 4) :
    decodePorts (portsOf (decodeCode code 0)) = .update (code.getLsbD 2) (code.getLsbD 3) 0 := by
  revert code; decide

namespace Machine

/-- Settles O39: what the two opcodes select, and the refusal by name of each (log entry 8). -/
theorem reservedOpcodesAreRefused : Obligations.ReservedOpcodesAreRefused :=
  ⟨fun _ => ⟨decodePorts_of_op6, decodePorts_of_op7⟩, fun _ => ⟨rfl, rfl⟩⟩

/-- An operation is settled by its effect on the state with no result on the outputs yet. -/
theorem operate_congr {s : State} {f g : State → Except Fault State} (h : f s.quiet = g s.quiet) :
    operate s f = operate s g := by
  simp only [operate, h]

/-- With `poll = 0` READ runs no pass (R110). -/
theorem readBody_of_not_poll {s : State} (h : s.poll = false) (a b : Bool) (now : Nat) :
    readBody a b now s = .ok (s.setRdata s.pos) := by
  simp [readBody, pollFirst, h]

/-- With `poll = 0` READ reads none of its operands (R67). -/
theorem exec_read_of_not_poll {s : State} (h : s.poll = false) (a b a' b' : Bool) (now now' : Nat) :
    exec (.read a b now) s = exec (.read a' b' now') s := by
  refine operate_congr (f := readBody a b now) (g := readBody a' b' now') ?_
  rw [readBody_of_not_poll (s := s.quiet) h, readBody_of_not_poll (s := s.quiet) h]

/-- Settles O52: but for READ, the ports that an opcode's operation carries agree, so the operation is the same; READ
carries its ports in either mode, and reads none with `poll = 0`. -/
theorem unreadPortsHaveNoEffect : Obligations.UnreadPortsHaveNoEffect := by
  intro s x y hop hsamples hnow hwdata hbound
  rcases opcode_cases x.op with h | h | h | h | h | h | h | h
  · rw [decodePorts_of_op0 h, decodePorts_of_op0 (hop ▸ h)]
  · obtain ⟨ha, hb⟩ := hsamples (.inl h)
    rw [decodePorts_of_op1 h, decodePorts_of_op1 (hop ▸ h), ha, hb, hbound h]
  · obtain ⟨ha, hb⟩ := hsamples (.inr (.inl h))
    rw [decodePorts_of_op2 h, decodePorts_of_op2 (hop ▸ h), ha, hb, hnow (.inl h)]
  · rw [decodePorts_of_op3 h, decodePorts_of_op3 (hop ▸ h)]
    cases hpoll : s.poll with
    | false => exact exec_read_of_not_poll hpoll ..
    | true =>
      obtain ⟨ha, hb⟩ := hsamples (.inr (.inr ⟨h, hpoll⟩))
      rw [ha, hb, hnow (.inr (.inr ⟨h, hpoll⟩))]
  · rw [decodePorts_of_op4 h, decodePorts_of_op4 (hop ▸ h), hwdata h]
  · rw [decodePorts_of_op5 h, decodePorts_of_op5 (hop ▸ h), hnow (.inr (.inl h))]
  · rw [decodePorts_of_op6 h, decodePorts_of_op6 (hop ▸ h)]
  · rw [decodePorts_of_op7 h, decodePorts_of_op7 (hop ▸ h)]

/-- The operation a code selects is the decode pass with that code (R84 to R99); the codes that carry no clock value
select a class that reads none (R80). -/
theorem exec_decodeCode (code : BitVec 4) (now : Timestamp) (s : State) :
    exec (decodeCode code now) s = operate s (decodePass code now) := by
  obtain ⟨⟨n, hn⟩⟩ := code
  interval_cases n <;> rfl

/-- A code placed in a state is offered as its UPDATE, with its bits 1..0 in `hist` (log entry 10). -/
theorem withFetchWord_of_code (s : State) {w : Nat} (hw : w < 16) :
    s.withFetchWord 4 w =
      (s.setHist (BitVec.ofNat 2 (w % 4))).offerHost (portsOf (decodeCode (BitVec.ofNat 4 w) 0)) := by
  simp [State.withFetchWord, State.placeWord, isCodeWord, hw]

/-- Settles O55: the UPDATE offered forms the code from `hist` and the samples, and runs the code's pass. -/
theorem placedDecodeCodeIsPerformed : Obligations.PlacedDecodeCodeIsPerformed := by
  intro s w hw
  have hlow : BitVec.ofNat 2 w = (BitVec.ofNat 4 w).setWidth 2 := (BitVec.setWidth_ofNat_of_le (by decide) w).symm
  have hplaced : BitVec.ofNat 2 (w % 4) = BitVec.ofNat 2 w := BitVec.eq_of_toNat_eq (by simp)
  rw [withFetchWord_of_code s hw, step_offerHost, decodePorts_portsOf_decodeCode, exec_update, exec_decodeCode,
    hplaced, State.setHist_hist, hlow, codeOf_bits]

end Machine

end Sys2Proof

/-! SUPPORT. The decoder (40_decoder.md): what a decode pass leaves in a live state, from it each code and UPDATE, the
closed forms of R101, and runs of UPDATEs (R102). -/

namespace Sys2Proof

/-! The closed forms of class and delta (R101): which channel differs from the history. -/

section
variable {hist : BitVec 2} {a b : Bool}

theorem codeOf_of_neither_differs (h1 : (hist.getLsbD 0 != a) = false) (h2 : (hist.getLsbD 1 != b) = false) :
    edgeClass (codeOf hist a b) = .none ∧ delta (codeOf hist a b) = 0 := by
  revert hist a b; decide

theorem codeOf_of_ch1_differs (h1 : (hist.getLsbD 0 != a) = true) (h2 : (hist.getLsbD 1 != b) = false) :
    edgeClass (codeOf hist a b) = .ch1 ∧ delta (codeOf hist a b) = if a = b then 1 else -1 := by
  revert hist a b; decide

theorem codeOf_of_ch2_differs (h1 : (hist.getLsbD 0 != a) = false) (h2 : (hist.getLsbD 1 != b) = true) :
    edgeClass (codeOf hist a b) = .ch2 ∧ delta (codeOf hist a b) = if a ≠ b then 1 else -1 := by
  revert hist a b; decide

theorem codeOf_of_both_differ (h1 : (hist.getLsbD 0 != a) = true) (h2 : (hist.getLsbD 1 != b) = true) :
    edgeClass (codeOf hist a b) = .dbl ∧
    delta (codeOf hist a b) = if hist.getLsbD 0 = hist.getLsbD 1 then 2 else -2 := by
  revert hist a b; decide

end

/-- A pass over the pair that the history holds is of class NONE (R83). -/
theorem edgeClass_codeOf_pairOf (a b : Bool) : edgeClass (codeOf (pairOf a b) a b) = .none := by
  revert a b; decide

/-- The four single steps of a cycle in the counting-up order move by +1 each (R101). -/
theorem delta_codeOf_forward (a b : Bool) : delta (codeOf (pairOf a b) b (!a)) = 1 := by
  revert a b; decide

/-- The code of a single step back has the opposite delta (R101). -/
theorem delta_codeOf_single_step_back {a b a' b' : Bool} (hsingle : (a' != a) = !(b' != b)) :
    delta (codeOf (pairOf a' b') a b) = -delta (codeOf (pairOf a b) a' b') := by
  revert a b a' b'; decide

/-- A pass is the one that the closed forms describe (R101). -/
theorem Expected.pass_codeOf_hist (s : Machine.State) (a b : Bool) (now : Timestamp) :
    pass s (codeOf s.hist a b) now = closedFormPass s a b now := by
  simp only [closedFormPass]
  split
  case h_1 h1 h2 =>
    obtain ⟨hclass, hdelta⟩ := codeOf_of_neither_differs h1 h2
    rw [pass_of_no_record (.inl hclass), hdelta, newHistory_codeOf]
  case h_2 h1 h2 =>
    obtain ⟨hclass, hdelta⟩ := codeOf_of_ch1_differs h1 h2
    rw [pass_of_ch1 hclass, hdelta, newHistory_codeOf]
  case h_3 h1 h2 =>
    obtain ⟨hclass, hdelta⟩ := codeOf_of_ch2_differs h1 h2
    rw [pass_of_ch2 hclass, hdelta, newHistory_codeOf]
  case h_4 h1 h2 =>
    obtain ⟨hclass, hdelta⟩ := codeOf_of_both_differ h1 h2
    rw [pass_of_no_record (.inr hclass), hdelta, newHistory_codeOf]

namespace Machine

variable {s : State}

/-! A decode pass in a live state, by class. -/

/-- In a live state a decode pass completes, with whatever code and clock value (R80). -/
theorem operate_decodePass_of_live (h : s.Live) (code : BitVec 4) (now : Nat) :
    operate s (decodePass code now) = .next (Expected.pass s code (portTime s.params now)) := by
  rw [operate_of_built h.inv.params h.built, decodePass_quiet h.inv.range.cursor, finish]

/-- UPDATE completes in a live state, whatever clock value it carries (R80). -/
theorem exec_update_of_live (h : s.Live) (a b : Bool) (now : Nat) :
    exec (.update a b now) s = .next (Expected.pass s (codeOf s.hist a b) (portTime s.params now)) := by
  rw [exec_update, operate_decodePass_of_live h]

/-- A decode pass leaves a live state live (R35). -/
theorem State.Live.pass (h : s.Live) (code : BitVec 4) (now : Nat) :
    (Expected.pass s code (portTime s.params now)).Live :=
  ⟨by rw [Expected.pass_built, h.built], h.inv.pass code (portTime_fits _ now)⟩

/-- The position of a live state is in its range (R22). -/
theorem State.Live.wrapS_pos (h : s.Live) : wrapS s.params.posW s.pos = s.pos :=
  wrapS_of_fits h.inv.posW_pos h.inv.range.pos

/-- A pass of class NONE writes the history and nothing else (R83). -/
theorem pass_of_none (h : s.Live) {code : BitVec 4} (hclass : edgeClass code = .none) (now : Timestamp) :
    Expected.pass s code now = { s with hist := newHistory code, rdata := none, rate := none } := by
  rw [Expected.pass_of_no_record (.inl hclass), delta_of_none hclass, Expected.noRecord, add_zero, h.wrapS_pos]

theorem exec_decodeCode_of_none (h : s.Live) {code : BitVec 4} (hclass : edgeClass code = .none) (now : Timestamp) :
    exec (decodeCode code now) s = .next { s with hist := newHistory code, rdata := none, rate := none } := by
  rw [exec_decodeCode, operate_decodePass_of_live h, pass_of_none h hclass]

theorem exec_decodeCode_of_dbl (h : s.Live) {code : BitVec 4} (hclass : edgeClass code = .dbl) (now : Timestamp) :
    exec (decodeCode code now) s = .next (Expected.noRecord s (delta code) (newHistory code)) := by
  rw [exec_decodeCode, operate_decodePass_of_live h, Expected.pass_of_no_record (.inr hclass)]

theorem exec_decodeCode_of_ch1 (h : s.Live) {code : BitVec 4} (hclass : edgeClass code = .ch1) {now : Timestamp}
    (hnow : UFits s.params.tW now) :
    exec (decodeCode code now) s = .next (Expected.push s .ch1 now (delta code) (newHistory code)) := by
  rw [exec_decodeCode, operate_decodePass_of_live h, portTime_of_fits hnow, Expected.pass_of_ch1 hclass]

theorem exec_decodeCode_of_ch2 (h : s.Live) {code : BitVec 4} (hclass : edgeClass code = .ch2) {now : Timestamp}
    (hnow : UFits s.params.tW now) :
    exec (decodeCode code now) s = .next (Expected.push s .ch2 now (delta code) (newHistory code)) := by
  rw [exec_decodeCode, operate_decodePass_of_live h, portTime_of_fits hnow, Expected.pass_of_ch2 hclass]

/-! The sixteen codes. -/

/-- Settles O1, by evaluating the three tables. -/
theorem decodeTableIsTheSpecs : Obligations.DecodeTableIsTheSpecs := ⟨rfl, rfl, rfl⟩

/-- Settles O2: the four codes are of class NONE. -/
theorem noMovementCodesOnlySetHist : Obligations.NoMovementCodesOnlySetHist :=
  ⟨fun _ => ⟨rfl, rfl, rfl, rfl⟩, fun _ h =>
    ⟨exec_decodeCode_of_none (code := 0#4) h rfl 0, exec_decodeCode_of_none (code := 5#4) h rfl 0,
      exec_decodeCode_of_none (code := 10#4) h rfl 0, exec_decodeCode_of_none (code := 15#4) h rfl 0⟩⟩

/-- Settles O3: the four codes are of class CH1. -/
theorem channelOneCodesStepAndPush : Obligations.ChannelOneCodesStepAndPush :=
  ⟨fun _ => ⟨rfl, rfl, rfl, rfl⟩, fun _ _ h hnow =>
    ⟨exec_decodeCode_of_ch1 (code := 1#4) h rfl hnow, exec_decodeCode_of_ch1 (code := 4#4) h rfl hnow,
      exec_decodeCode_of_ch1 (code := 11#4) h rfl hnow, exec_decodeCode_of_ch1 (code := 14#4) h rfl hnow⟩⟩

/-- Settles O4: the four codes are of class CH2. -/
theorem channelTwoCodesStepAndPush : Obligations.ChannelTwoCodesStepAndPush :=
  ⟨fun _ => ⟨rfl, rfl, rfl, rfl⟩, fun _ _ h hnow =>
    ⟨exec_decodeCode_of_ch2 (code := 2#4) h rfl hnow, exec_decodeCode_of_ch2 (code := 7#4) h rfl hnow,
      exec_decodeCode_of_ch2 (code := 8#4) h rfl hnow, exec_decodeCode_of_ch2 (code := 13#4) h rfl hnow⟩⟩

/-- Settles O5: the four codes are of class DBL. -/
theorem doubleStepCodesMoveByTwoAndRecordNothing : Obligations.DoubleStepCodesMoveByTwoAndRecordNothing :=
  ⟨fun _ => ⟨rfl, rfl, rfl, rfl⟩, fun _ h =>
    ⟨exec_decodeCode_of_dbl (code := 3#4) h rfl 0, exec_decodeCode_of_dbl (code := 6#4) h rfl 0,
      exec_decodeCode_of_dbl (code := 9#4) h rfl 0, exec_decodeCode_of_dbl (code := 12#4) h rfl 0⟩⟩

/-! UPDATE. -/

/-- Settles O6: a clock value that fits is the one the port carries. -/
theorem updateIsOneDecodePass : Obligations.UpdateIsOneDecodePass := by
  refine ⟨fun _ => decodePorts_of_op2, fun s a b now h hnow => ?_⟩
  rw [exec_update_of_live h, portTime_of_fits hnow]

/-- Settles O7: both are the pass with the code formed. -/
theorem updateRunsTheCodeItForms : Obligations.UpdateRunsTheCodeItForms := by
  intro s a b now
  rw [exec_update, exec_decodeCode]

/-- Settles O8, by the closed forms of the code that UPDATE forms. -/
theorem updateFollowsTheClosedForms : Obligations.UpdateFollowsTheClosedForms := by
  intro s a b now h hnow
  rw [exec_update_of_live h, portTime_of_fits hnow, Expected.pass_codeOf_hist]

/-- Settles O9: the code is of class NONE, and its new history is the pair again. -/
theorem spuriousPassChangesNothing : Obligations.SpuriousPassChangesNothing := by
  intro s a b now h hpair
  have hclass : edgeClass (codeOf s.hist a b) = .none := hpair ▸ edgeClass_codeOf_pairOf a b
  rw [exec_update_of_live h, pass_of_none h hclass, newHistory_codeOf, hpair]

/-! Runs of UPDATEs (R102). -/

/-- A run goes on from what its first operation leaves. -/
theorem runOps_cons_of_next {t : State} {i : Instr} (h : exec i s = .next t) (rest : List Instr) :
    runOps (i :: rest) s = runOps rest t := by
  rw [runOps, h]

/-- UPDATEs from a live state complete, whatever clock values they carry, and their deltas add up (R102). -/
theorem runOps_updates (h : s.Live) (es : List EdgeNotice) :
    ∃ t, runOps (es.map Expected.updateOf) s = .next t ∧
      t.pos = wrapS s.params.posW (s.pos + ((Expected.codes s.hist es).map delta).sum) ∧
      t.hist = Expected.lastPair s.hist es := by
  induction es generalizing s with
  | nil => exact ⟨s, rfl, by simp [Expected.codes, h.wrapS_pos], rfl⟩
  | cons e rest ih =>
    obtain ⟨t, hrun, hpos, hhist⟩ := ih (h.pass (codeOf s.hist e.a e.b) e.now)
    rw [Expected.pass_params, Expected.pass_pos, Expected.pass_hist, newHistory_codeOf, wrapS_add_wrapS,
      add_assoc] at hpos
    rw [Expected.pass_hist, newHistory_codeOf] at hhist
    exact ⟨t, (runOps_cons_of_next (exec_update_of_live h e.a e.b e.now) _).trans hrun, hpos, hhist⟩

/-- Settles O11, by the run of UPDATEs. -/
theorem positionAddsTheDeltasOfThePasses : Obligations.PositionAddsTheDeltasOfThePasses :=
  fun _ es h _ => runOps_updates h es

/-- Settles O12: each of the four passes is a forward step from the pair before it. -/
theorem oneForwardCycleAddsFour : Obligations.OneForwardCycleAddsFour := by
  intro s a b n1 n2 n3 n4 h hpair
  obtain ⟨t, hrun, hpos, hhist⟩ := runOps_updates h [⟨b, !a, n1⟩, ⟨!a, !b, n2⟩, ⟨!b, a, n3⟩, ⟨a, b, n4⟩]
  have hsecond := delta_codeOf_forward b (!a)
  have hthird := delta_codeOf_forward (!a) (!b)
  have hfourth := delta_codeOf_forward (!b) a
  rw [Bool.not_not] at hthird hfourth
  simp only [Expected.codes, ← hpair, List.map_cons, List.map_nil, List.sum_cons, List.sum_nil,
    delta_codeOf_forward a b, hsecond, hthird, hfourth] at hpos
  exact ⟨t, hrun, hpos, hhist.trans hpair⟩

/-- Settles O13: the two deltas are opposite. -/
theorem singleStepAndBackCancel : Obligations.SingleStepAndBackCancel := by
  intro s a b a' b' n1 n2 h hpair hsingle
  obtain ⟨t, hrun, hpos, hhist⟩ := runOps_updates h [⟨a', b', n1⟩, ⟨a, b, n2⟩]
  simp only [Expected.codes, ← hpair, List.map_cons, List.map_nil, List.sum_cons, List.sum_nil,
    delta_codeOf_single_step_back hsingle, add_zero, add_neg_cancel] at hpos
  exact ⟨t, hrun, hpos.trans h.wrapS_pos, hhist.trans hpair⟩

end Machine

end Sys2Proof

/-! SUPPORT. The position register (41_position.md): the wrapped sum as bit-vector addition (R112), what READ and WRITE
leave in a live state (R110, R111), and the properties of the two in a row (R115). -/

namespace Sys2Proof

/-! The addition of a delta (R112). -/

/-- Wrapping a whole number is reading its `w` low bits as a signed number (R9). -/
theorem toInt_ofInt_eq_wrapS (w : Nat) (z : Int) : (BitVec.ofInt w z).toInt = wrapS w z :=
  BitVec.toInt_ofInt z

/-- The 3-bit field holds every delta (R64). -/
theorem toInt_deltaBits (code : BitVec 4) : (deltaBits code).toInt = delta code := by
  revert code; decide

/-- The sign-extended delta field is the delta (R64, R112). -/
theorem signExtend_deltaBits (w : Nat) (code : BitVec 4) :
    (deltaBits code).signExtend w = BitVec.ofInt w (delta code) := by
  rw [BitVec.signExtend, toInt_deltaBits]

/-- Settles O18: a sum of whole numbers has the sum of their bit patterns. -/
theorem positionAdditionIsTwosComplement : Obligations.PositionAdditionIsTwosComplement := by
  intro w pos code _
  rw [signExtend_deltaBits, ← BitVec.ofInt_add, toInt_ofInt_eq_wrapS]

/-! Port `wdata`. -/

/-- A value that fits port `wdata` is the one the port carries (R65). -/
theorem portPosition_of_fits {p : Params} (hp : 1 ≤ p.posW) {x : Position} (hx : SFits p.posW x) :
    portPosition p x = x :=
  wrapS_of_fits hp hx

namespace Machine

variable {s t : State}

/-! READ and WRITE in a live state. -/

/-- With `poll = 0` READ returns the position as it is (R110). -/
theorem exec_read_of_live_of_not_poll (h : s.Live) (hpoll : s.poll = false) (a b : Bool) (now : Nat) :
    exec (.read a b now) s = .next (s.quiet.setRdata s.pos) := by
  calc exec (.read a b now) s
    _ = finish (readBody a b now s.quiet) := operate_of_built h.inv.params h.built _
    _ = .next (s.quiet.setRdata s.pos) := by rw [readBody_of_not_poll (s := s.quiet) hpoll, finish, State.quiet_pos]

/-- With `poll = 1` READ returns the position after the pass that UPDATE would run (R110). -/
theorem exec_read_of_live_of_poll (h : s.Live) (hpoll : s.poll = true) (a b : Bool) (now : Nat) :
    exec (.read a b now) s =
      .next ((Expected.pass s (codeOf s.hist a b) (portTime s.params now)).setRdata
        (Expected.pass s (codeOf s.hist a b) (portTime s.params now)).pos) := by
  have hfirst : pollFirst a b now s.quiet = .ok (Expected.pass s (codeOf s.hist a b) (portTime s.params now)) :=
    (if_pos hpoll).trans (decodePass_quiet h.inv.range.cursor _ now)
  calc exec (.read a b now) s
    _ = finish (readBody a b now s.quiet) := operate_of_built h.inv.params h.built _
    _ = _ := by simp only [readBody, hfirst, finish]

/-- WRITE of a value that fits sets the position to it (R111). -/
theorem exec_write_of_live (h : s.Live) {x : Position} (hx : SFits s.params.posW x) :
    exec (.write x) s = .next (s.quiet.setPos x) := by
  calc exec (.write x) s
    _ = finish (writeBody x s.quiet) := operate_of_built h.inv.params h.built _
    _ = .next (s.quiet.setPos x) := by
      rw [writeBody, finish, State.quiet_params, portPosition_of_fits h.inv.posW_pos hx]

/-- An operation that answers leaves a live state live (R35). -/
theorem State.Live.exec_next {i : Instr} (h : s.Live) (hexec : exec i s = .next t) : t.Live := by
  obtain ⟨-, -, hbuilt, -⟩ := onlyInitWritesPoll s t i hexec
  exact ⟨hbuilt, exec_inv h.inv hexec⟩

/-- A READ that finds no movement returns the position as it was: it runs no pass, or one of class NONE (R110). -/
theorem exec_read_returns_pos (h : s.Live) {a b : Bool} (hsame : s.poll = true → pairOf a b = s.hist) (now : Nat) :
    ∃ t, exec (.read a b now) s = .next t ∧ t.rdata = some s.pos := by
  cases hpoll : s.poll with
  | false => exact ⟨_, exec_read_of_live_of_not_poll h hpoll a b now, rfl⟩
  | true =>
    have hclass : edgeClass (codeOf s.hist a b) = .none := hsame hpoll ▸ edgeClass_codeOf_pairOf a b
    refine ⟨_, exec_read_of_live_of_poll h hpoll a b now, ?_⟩
    rw [State.setRdata_rdata, Expected.pass_pos, delta_of_none hclass, add_zero, h.wrapS_pos]

/-- READ completes in a live state, in either mode, and returns the position it leaves (R110). -/
theorem exec_read_of_live (h : s.Live) (a b : Bool) (now : Nat) :
    ∃ t, exec (.read a b now) s = .next t ∧ t.rdata = some t.pos := by
  cases hpoll : s.poll with
  | false => exact ⟨_, exec_read_of_live_of_not_poll h hpoll a b now, rfl⟩
  | true => exact ⟨_, exec_read_of_live_of_poll h hpoll a b now, rfl⟩

/-! The statements. -/

/-- Settles O16, by what READ leaves in each mode. -/
theorem readPollsThenReturnsThePosition : Obligations.ReadPollsThenReturnsThePosition := by
  refine ⟨fun _ => decodePorts_of_op3, fun s a b now h hnow => ?_⟩
  by_cases hpoll : s.poll = true
  · rw [exec_read_of_live_of_poll h hpoll, portTime_of_fits (hnow hpoll), if_pos hpoll]
    rfl
  · rw [exec_read_of_live_of_not_poll h (Bool.eq_false_of_not_eq_true hpoll), if_neg hpoll]
    rfl

/-- Settles O17, by what WRITE leaves. -/
theorem writeSetsThePositionOnly : Obligations.WriteSetsThePositionOnly :=
  ⟨fun _ => decodePorts_of_op4, fun _ _ h hx => exec_write_of_live h hx⟩

/-- Settles O19: WRITE keeps the mode and the history, so READ finds no movement after it. -/
theorem writeThenReadReturnsTheValue : Obligations.WriteThenReadReturnsTheValue := by
  intro s x a b now h hx hsame
  have hwrite := exec_write_of_live h hx
  obtain ⟨t, hread, hrdata⟩ := exec_read_returns_pos (h.exec_next hwrite) hsame now
  refine ⟨t, ?_, hrdata⟩
  rw [runOps_cons_of_next hwrite, runOps_cons_of_next hread, runOps]

/-- Settles O20: the first READ loads its samples into the history when it polls, so the second finds no movement. -/
theorem readThenReadReturnsTheSame : Obligations.ReadThenReadReturnsTheSame := by
  intro s a b a' b' n1 n2 h hsamples
  obtain ⟨t, hfirst, hreturned⟩ := exec_read_of_live h a b n1
  obtain ⟨-, -, -, hpoll⟩ := onlyInitWritesPoll s t _ hfirst
  obtain ⟨-, -, hhist⟩ := histHoldsTheLatestPair s t a b n1 0#2
  have hsame : t.poll = true → pairOf a' b' = t.hist := by
    intro ht
    rw [hpoll rfl] at ht
    obtain ⟨rfl, rfl⟩ := hsamples ht
    rw [hhist hfirst, if_pos ht]
  obtain ⟨u, hsecond, hrdata⟩ := exec_read_returns_pos (h.exec_next hfirst) hsame n2
  exact ⟨t, u, t.pos, hfirst, hsecond, hreturned, hrdata⟩

/-- Settles O21: WRITE leaves a live state, from which the second operation sets or moves the position. -/
theorem writeThenWriteOrPass : Obligations.WriteThenWriteOrPass := by
  intro s x y a b now h hx hy
  have hwrite := exec_write_of_live h hx
  have hlive := h.exec_next hwrite
  constructor
  · have hsecond := exec_write_of_live hlive (x := y) hy
    exact ⟨_, by rw [runOps_cons_of_next hwrite, runOps_cons_of_next hsecond, runOps], rfl⟩
  · have hpass := exec_update_of_live hlive a b now
    exact ⟨_, by rw [runOps_cons_of_next hwrite, runOps_cons_of_next hpass, runOps], Expected.pass_pos ..⟩

end Machine

end Sys2Proof

/-! SUPPORT. The ring buffer (42_ring_buffer.md): elapsed time over the clock's wrap (R121), what a push does to the
ring's contents (R123), and what INIT and a run of UPDATEs leave in the ring (R125). -/

namespace Sys2Proof

/-- Settles O22: adding the time and wrapping the clock does not change the difference modulo `2^T_W`. -/
theorem elapsedTimeSurvivesClockRollover : Obligations.ElapsedTimeSurvivesClockRollover := by
  intro w earlier d _
  have hmod : ((((earlier + d) % 2 ^ w : Nat) : Int) - earlier) % ((2 ^ w : Nat) : Int) = ((d % 2 ^ w : Nat) : Int) := by
    rw [Int.natCast_mod, Int.emod_sub_emod, Nat.cast_add, add_sub_cancel_left, Int.natCast_mod]
  rw [elapsed, hmod, Int.toNat_natCast]

/-- The class of the codes that record an edge of the channel (R83). -/
def Channel.recordedBy : Channel → EdgeClass
  | .ch1 => .ch1
  | .ch2 => .ch2

/-- A pass of a channel's class is a push on that channel (R83, R120). -/
theorem Expected.pass_of_recordedBy {s : Machine.State} {ch : Channel} {code : BitVec 4}
    (hclass : edgeClass code = ch.recordedBy) (now : Timestamp) :
    pass s code now = push s ch now (delta code) (newHistory code) := by
  cases ch with
  | ch1 => exact pass_of_ch1 hclass now
  | ch2 => exact pass_of_ch2 hclass now

namespace Machine

variable {s : State}

/-! The contents of the ring as a list. -/

@[simp] theorem State.length_ringContents (s : State) : s.ringContents.length = s.unconsumed := by
  simp [State.ringContents]

/-- While no push has taken a slot for the second time, the contents are the first slots in order (R35, R125). -/
theorem ringContents_of_not_wrapped (hcursor : s.cursor = s.unconsumed % s.params.c)
    (hle : s.unconsumed ≤ s.params.c) : s.ringContents = (List.range s.unconsumed).map (Memory.get s.ring) := by
  refine List.map_congr_left fun i hi => congrArg _ ?_
  have hi : i < s.unconsumed := List.mem_range.mp hi
  rcases hle.eq_or_lt with hfull | hroom
  · simp [hcursor, hfull, Nat.mod_eq_of_lt (hfull ▸ hi)]
  · have hindex : s.cursor + s.params.c - s.unconsumed + i = i + s.params.c := by
      rw [hcursor, Nat.mod_eq_of_lt hroom]
      omega
    rw [hindex, Nat.add_mod_right, Nat.mod_eq_of_lt (hi.trans hroom)]

/-- The contents of a full ring start at the cursor (R125). -/
theorem ringContents_of_full (hfull : s.unconsumed = s.params.c) :
    s.ringContents = (List.range s.params.c).map fun i => Memory.get s.ring ((s.cursor + i) % s.params.c) := by
  rw [State.ringContents, hfull, Nat.add_sub_cancel]

/-- The walk order of RATE is the order of the contents reversed (R125, R133). -/
theorem newestFirst_eq_reverse (hle : s.unconsumed ≤ s.params.c) : s.newestFirst = s.ringContents.reverse := by
  refine List.ext_getElem (by simp [State.newestFirst]) fun k hk _ => ?_
  have hk : k < s.unconsumed := by simpa [State.newestFirst] using hk
  have hindex : s.cursor + s.params.c - s.unconsumed + (s.unconsumed - 1 - k) = s.cursor + s.params.c - 1 - k := by
    omega
  simp [State.newestFirst, State.ringContents, loadIndex, hindex]

/-! A push. -/

/-- Within one turn of the ring the slots after the cursor are other slots than the cursor's (R42). -/
theorem slot_after_cursor_ne {j i c : Nat} (hj : j < c) (hi : i + 1 < c) : (j + 1 + i) % c ≠ j := by
  rcases lt_or_ge (j + 1 + i) c with hlt | hge
  · rw [Nat.mod_eq_of_lt hlt]
    omega
  · rw [Nat.mod_eq_sub_mod hge, Nat.mod_eq_of_lt (by omega)]
    omega

/-- A push stores the interval of R121 and R122 in slot `cursor`. -/
theorem push_ring (s : State) (ch : Channel) (now : Timestamp) (d : Int) (hist : BitVec 2) :
    (Expected.push s ch now d hist).ring = Memory.put s.ring s.cursor (intervalOf s ch now d) := by
  rw [intervalOf, natCast_elapsed]
  rfl

/-- A push into a ring with room appends the interval (R123). -/
theorem push_ringContents_of_room (h : s.Inv) (hroom : s.unconsumed < s.params.c) (ch : Channel) (now : Timestamp)
    (d : Int) (hist : BitVec 2) :
    (Expected.push s ch now d hist).ringContents = s.ringContents ++ [intervalOf s ch now d] := by
  have hcursor := h.timing.counted hroom
  have hcount : (Expected.push s ch now d hist).unconsumed = s.unconsumed + 1 := min_eq_left hroom
  have hnext : (Expected.push s ch now d hist).cursor = (s.unconsumed + 1) % s.params.c := by rw [← hcursor]; rfl
  rw [ringContents_of_not_wrapped (by rw [hnext, hcount]; rfl) (by rw [hcount]; exact hroom),
    ringContents_of_not_wrapped (hcursor.trans (Nat.mod_eq_of_lt hroom).symm) hroom.le, hcount, List.range_succ,
    List.map_append, List.map_singleton, push_ring, ← hcursor, Memory.get_put_same h.timing.ring]
  congr 1
  exact List.map_congr_left fun i hi => Memory.get_put_other (List.mem_range.mp hi).ne _

/-- A push into a full ring takes the slot of the oldest interval (R123). -/
theorem push_ringContents_of_full (h : s.Inv) (hfull : s.unconsumed = s.params.c) (ch : Channel) (now : Timestamp)
    (d : Int) (hist : BitVec 2) :
    (Expected.push s ch now d hist).ringContents = s.ringContents.tail ++ [intervalOf s ch now d] := by
  have hcursor := h.range.cursor
  obtain ⟨n, hn⟩ : ∃ n, s.params.c = n + 1 := Nat.exists_eq_add_one.mpr (by omega)
  have hcount : (Expected.push s ch now d hist).unconsumed = s.params.c := min_eq_right (by omega)
  have hold : s.ringContents.tail =
      (List.range n).map fun i => Memory.get s.ring ((s.cursor + 1 + i) % (n + 1)) := by
    rw [ringContents_of_full hfull, hn, List.range_succ_eq_map, List.map_cons, List.tail_cons, List.map_map]
    exact List.map_congr_left fun i _ => by simp [Nat.add_assoc, Nat.add_comm 1]
  have hnew : (Expected.push s ch now d hist).ringContents = (List.range (n + 1)).map fun i =>
      Memory.get (Memory.put s.ring s.cursor (intervalOf s ch now d)) ((s.cursor + 1 + i) % (n + 1)) := by
    rw [ringContents_of_full hcount, push_ring]
    simp [Expected.push, hn]
  have hlast : (s.cursor + 1 + n) % (n + 1) = s.cursor := by
    rw [Nat.add_assoc, Nat.add_comm 1, Nat.add_mod_right, Nat.mod_eq_of_lt (hn ▸ hcursor)]
  rw [hnew, hold, List.range_succ, List.map_append, List.map_singleton, hlast, Memory.get_put_same h.timing.ring]
  congr 1
  have hothers {i : Nat} (hi : i < n) : (s.cursor + 1 + i) % (n + 1) ≠ s.cursor :=
    slot_after_cursor_ne (hn ▸ hcursor) (Nat.succ_lt_succ hi)
  exact List.map_congr_left fun i hi => Memory.get_put_other (hothers (List.mem_range.mp hi)) _

/-- A push keeps the latest `C` intervals: the contents with the new one appended, without the oldest exactly when the
ring was full (R123). -/
theorem push_ringContents (h : s.Inv) (ch : Channel) (now : Timestamp) (d : Int) (hist : BitVec 2) :
    (Expected.push s ch now d hist).ringContents =
      (if s.unconsumed < s.params.c then s.ringContents else s.ringContents.tail) ++ [intervalOf s ch now d] := by
  split
  case isTrue hroom => exact push_ringContents_of_room h hroom ch now d hist
  case isFalse hroom =>
    exact push_ringContents_of_full h (h.range.unconsumed.antisymm (not_lt.mp hroom)) ch now d hist

/-- Settles O23: an UPDATE of class CH1 or CH2 is a push on that channel. -/
theorem pushAppendsAndDropsTheOldestWhenFull : Obligations.PushAppendsAndDropsTheOldestWhenFull := by
  intro s a b now ch h hnow hclass
  refine ⟨_, exec_update_of_live h a b now, ?_⟩
  rw [portTime_of_fits hnow, Expected.pass_of_recordedBy (ch := ch) hclass, push_ringContents h.inv, intervalOf]

/-! The intervals pushed since INIT. -/

/-- The ring of a state after the pushes of `ivs`, in order, into an empty ring (R35, R125). -/
structure State.HoldsLast (s : State) (ivs : List Interval) : Prop where
  contents : s.ringContents = ivs.drop (ivs.length - s.params.c)
  cursor : s.cursor = ivs.length % s.params.c
  unconsumed : s.unconsumed = min ivs.length s.params.c

/-- After INIT nothing has been pushed (R34). -/
theorem construct_holdsLast (s : State) (a b : Bool) (bound : BitVec 2) : (construct s a b bound).HoldsLast [] :=
  ⟨List.drop_nil.symm, (Nat.zero_mod _).symm, (Nat.zero_min _).symm⟩

/-- A pass that records nothing leaves the ring as it is (R83). -/
theorem State.HoldsLast.noRecord {ivs : List Interval} (hr : s.HoldsLast ivs) (d : Int) (hist : BitVec 2) :
    (Expected.noRecord s d hist).HoldsLast ivs :=
  ⟨hr.contents, hr.cursor, hr.unconsumed⟩

/-- A push adds its interval to those pushed (R120, R123). -/
theorem State.HoldsLast.push {ivs : List Interval} (hr : s.HoldsLast ivs) (h : s.Inv) (ch : Channel) (now : Timestamp)
    (d : Int) (hist : BitVec 2) :
    (Expected.push s ch now d hist).HoldsLast (ivs ++ [intervalOf s ch now d]) := by
  obtain ⟨hcontents, hcursor, hunconsumed⟩ := hr
  have hlength : (ivs ++ [intervalOf s ch now d]).length = ivs.length + 1 := by simp
  refine ⟨?contents, ?cursor, ?unconsumed⟩ <;> rw [hlength]
  case contents =>
    have hparams : (Expected.push s ch now d hist).params = s.params := rfl
    rw [push_ringContents h, hcontents, hparams]
    split
    case isTrue hroom =>
      have hnone : ivs.length + 1 - s.params.c = 0 := by omega
      rw [hnone, Nat.sub_eq_zero_of_le (by omega), List.drop_zero, List.drop_zero]
    case isFalse hroom =>
      have hone : ivs.length + 1 - s.params.c = ivs.length - s.params.c + 1 := by omega
      have hkept : ivs.length - s.params.c + 1 ≤ ivs.length := by
        have := h.range.cursor
        omega
      rw [hone, List.tail_drop, List.drop_append_of_le_length hkept]
  case cursor => simp [Expected.push, hcursor]
  case unconsumed => simp only [Expected.push, hunconsumed]; omega

/-- The intervals that UPDATEs from a state push, in order (R120). -/
def State.pushedBy (s : State) (es : List EdgeNotice) : List Interval :=
  Expected.pushed s.params.tW s.hist s.lastEdgeTime0 s.lastEdgeTime1 es

/-- One UPDATE of a run: it pushes the interval of its class, if any, and the others push from what it leaves. -/
theorem State.HoldsLast.pass {ivs : List Interval} (hr : s.HoldsLast ivs) (h : s.Inv) (e : EdgeNotice)
    (rest : List EdgeNotice) :
    ∃ new, (Expected.pass s (codeOf s.hist e.a e.b) e.now).HoldsLast (ivs ++ new) ∧
      s.pushedBy (e :: rest) = new ++ (Expected.pass s (codeOf s.hist e.a e.b) e.now).pushedBy rest := by
  rcases edgeClass_cases (codeOf s.hist e.a e.b) with hclass | hchannel
  · refine ⟨[], ?_, ?_⟩ <;> rw [Expected.pass_of_no_record hclass]
    · rw [List.append_nil]
      exact hr.noRecord _ _
    · rcases hclass with hclass | hclass <;>
        simp [State.pushedBy, Expected.pushed, Expected.noRecord, hclass, newHistory_codeOf]
  · obtain ⟨ch, hclass⟩ : ∃ ch : Channel, edgeClass (codeOf s.hist e.a e.b) = ch.recordedBy :=
      hchannel.elim (⟨.ch1, ·⟩) (⟨.ch2, ·⟩)
    refine ⟨[intervalOf s ch e.now (delta (codeOf s.hist e.a e.b))], ?_, ?_⟩ <;>
      rw [Expected.pass_of_recordedBy hclass]
    · exact hr.push h ..
    · cases ch <;>
        simp [State.pushedBy, Expected.pushed, Expected.push, hclass, Channel.recordedBy, newHistory_codeOf,
          intervalOf, State.lastEdgeTime]

/-- UPDATEs from a live state add the intervals they push to those the ring has taken (R125). -/
theorem runOps_updates_holdsLast {ivs : List Interval} (h : s.Live) (hr : s.HoldsLast ivs) (es : List EdgeNotice)
    (hfits : ∀ e ∈ es, UFits s.params.tW e.now) :
    ∃ t, runOps (es.map Expected.updateOf) s = .next t ∧ t.params = s.params ∧ t.HoldsLast (ivs ++ s.pushedBy es) := by
  induction es generalizing s ivs with
  | nil => exact ⟨s, rfl, rfl, by rwa [State.pushedBy, Expected.pushed, List.append_nil]⟩
  | cons e rest ih =>
    obtain ⟨hnow, hrest⟩ := List.forall_mem_cons.mp hfits
    have hupdate := exec_update_of_live h e.a e.b e.now
    have hlive := h.exec_next hupdate
    rw [portTime_of_fits hnow] at hupdate hlive
    obtain ⟨new, hpass, hpushed⟩ := hr.pass h.inv e rest
    obtain ⟨t, hrun, hparams, ht⟩ := ih hlive hpass (by rwa [Expected.pass_params])
    rw [Expected.pass_params] at hparams
    exact ⟨t, (runOps_cons_of_next hupdate _).trans hrun, hparams, by rwa [hpushed, ← List.append_assoc]⟩

/-- Settles O24: INIT leaves the ring of no pushes, and the UPDATEs add theirs. -/
theorem ringHoldsTheLastIntervalsPushed : Obligations.RingHoldsTheLastIntervalsPushed := by
  intro s a b bound es hp hfits ivs
  obtain ⟨t, hrun, hparams, hcontents, hcursor, hunconsumed⟩ :=
    runOps_updates_holdsLast (construct_live hp a b bound) (construct_holdsLast s a b bound) es hfits
  have hparams : t.params = s.params := hparams
  have hle : t.unconsumed ≤ t.params.c := hunconsumed ▸ min_le_right _ _
  refine ⟨t, (runOps_cons_of_next (exec_init_of_ok hp a b bound) _).trans hrun, ?_⟩
  rw [hparams] at hcontents hcursor hunconsumed
  exact ⟨hcontents, newestFirst_eq_reverse hle, hcursor, hunconsumed⟩

end Machine

end Sys2Proof

/-! SUPPORT. The rate estimator (43_rate_estimator.md): the walk of RATE as the sum of R135, from it the value RATE
answers in a live state, and its rendering (R137). -/

namespace Sys2Proof.Machine

variable {s t : State}

/-! The steps of the entries and what the budget credits of them (R132, R133, R136). -/

/-- The steps of the entries newer than the one at walk index `k`, what the walk has met before it (R132, R133). -/
def State.stepsBefore (s : State) (k : Nat) : Nat := ((List.range k).map (Expected.steps s)).sum

/-- The velocity that the entry at walk index `k` contributes with the steps credited to it (R133, R136). -/
def State.credit (s : State) (k : Nat) : Rat := contribution (Expected.creditedSteps s k) (Expected.entry s k)

theorem State.stepsBefore_succ (s : State) (k : Nat) :
    s.stepsBefore (k + 1) = s.stepsBefore k + Expected.steps s k :=
  List.sum_range_succ ..

theorem State.stepsBefore_mono (s : State) : Monotone s.stepsBefore :=
  monotone_nat_of_le_succ fun k => by rw [s.stepsBefore_succ]; exact Nat.le_add_right ..

theorem creditedSteps_eq (s : State) (k : Nat) :
    Expected.creditedSteps s k = min (Expected.steps s k) (s.params.n - s.stepsBefore k) := rfl

/-- Once the newer entries hold the budget nothing is credited (R136). -/
theorem creditedSteps_of_spent {k : Nat} (h : s.params.n ≤ s.stepsBefore k) : Expected.creditedSteps s k = 0 := by
  rw [creditedSteps_eq]
  omega

/-- The credited steps add up to the steps of the entries, as far as the budget reaches (R136). -/
theorem sum_creditedSteps (s : State) (k : Nat) :
    ((List.range k).map (Expected.creditedSteps s)).sum = min s.params.n (s.stepsBefore k) := by
  induction k with
  | zero => exact (Nat.min_zero _).symm
  | succ k ih =>
    rw [List.sum_range_succ, ih, creditedSteps_eq, s.stepsBefore_succ]
    omega

/-- Once the newer entries hold the budget no entry contributes (R136). -/
theorem State.credit_of_spent {k : Nat} (h : s.params.n ≤ s.stepsBefore k) : s.credit k = 0 := by
  simp [State.credit, contribution, creditedSteps_of_spent h]

theorem sum_credit_of_spent {k : Nat} (h : s.params.n ≤ s.stepsBefore k) (left : Nat) :
    ((List.range' k left).map s.credit).sum = 0 := by
  refine List.sum_eq_zero fun x hx => ?_
  obtain ⟨j, hj, rfl⟩ := List.mem_map.mp hx
  exact State.credit_of_spent (h.trans (s.stepsBefore_mono (List.mem_range'_1.mp hj).1))

/-- The sum of R135, by the contributions of R133. -/
theorem exactSum_eq (s : State) :
    Expected.exactSum s = ((List.range s.unconsumed).map s.credit).sum / (s.params.n : Rat) := by
  have hcredit : s.credit = fun k => 2 * (Expected.creditedSteps s k : Rat) / (Expected.entry s k : Rat) :=
    funext fun k => by rw [State.credit, contribution, mul_comm (2 : Rat)]
  rw [hcredit, Expected.exactSum]

/-! The walk (R133). -/

/-- The walk reads the entries of R133. -/
theorem memRead_loadIndex (hc : 1 ≤ s.params.c) (k : Nat) : memRead s (loadIndex s k) = .ok (Expected.entry s k) :=
  memRead_of_lt (loadIndex_lt hc k)

/-- The entry visited within the budget adds its contribution; the walk leaves the loop only with the budget spent, and
else has counted the entry's steps (R133, R134, R136). -/
theorem creditEntry_entry {k : Nat} {w w' : Walk} {leave : Bool} (hcum : w.cum = s.stepsBefore k)
    (hroom : w.cum ≤ s.params.n) (h : creditEntry s.params (Expected.entry s k) w = (w', leave)) :
    w'.acc = w.acc + s.credit k ∧ (leave = true → s.params.n ≤ s.stepsBefore (k + 1)) ∧
    (leave = false → w'.cum = s.stepsBefore (k + 1) ∧ w'.cum ≤ s.params.n) := by
  have hsteps : stepsOf s.params (Expected.entry s k) = Expected.steps s k := rfl
  have hcredited := creditedSteps_eq s k
  rw [← hcum] at hcredited
  rw [s.stepsBefore_succ, State.credit, ← hcum]
  rw [creditEntry, hsteps] at h
  split at h
  case isTrue hzero =>
    cases h
    have hnone : Expected.creditedSteps s k = 0 := by omega
    exact ⟨by simp [hnone, contribution], nofun, fun _ => ⟨by rw [hzero, add_zero], hroom⟩⟩
  case isFalse =>
    split at h
    case isTrue hover =>
      cases h
      have hpartial : Expected.creditedSteps s k = s.params.n - w.cum := by omega
      exact ⟨by rw [hpartial], fun _ => hover.le, nofun⟩
    case isFalse hwithin =>
      cases h
      have hfull : Expected.creditedSteps s k = Expected.steps s k := by omega
      exact ⟨by rw [hfull], nofun, fun _ => ⟨rfl, not_lt.mp hwithin⟩⟩

/-- A walk that has counted the steps of the newer entries adds up the contributions of those still to visit. -/
theorem rateWalk_acc (hc : 1 ≤ s.params.c) (left : Nat) {k : Nat} {w : Walk} (hcum : w.cum = s.stepsBefore k)
    (hroom : w.cum ≤ s.params.n) :
    ∃ w', rateWalk s left k w = .ok w' ∧ w'.acc = w.acc + ((List.range' k left).map s.credit).sum := by
  induction left generalizing k w with
  | zero => exact ⟨w, rfl, (add_zero _).symm⟩
  | succ left ih =>
    simp only [rateWalk, memRead_loadIndex hc]
    rw [List.range'_succ, List.map_cons, List.sum_cons, ← add_assoc]
    split
    next w' hentry =>
      obtain ⟨hacc, hspent, -⟩ := creditEntry_entry hcum hroom hentry
      exact ⟨w', rfl, by rw [hacc, sum_credit_of_spent (hspent rfl), add_zero]⟩
    next w' hentry =>
      obtain ⟨hacc, -, hcounted⟩ := creditEntry_entry hcum hroom hentry
      obtain ⟨hcum', hroom'⟩ := hcounted rfl
      rw [← hacc]
      exact ih hcum' hroom'

/-- The walk from its start adds up the contributions of all retained entries (R133, R135). -/
theorem fullWalk_acc (hc : 1 ≤ s.params.c) :
    ∃ w, fullWalk s = .ok w ∧ w.acc = ((List.range s.unconsumed).map s.credit).sum := by
  obtain ⟨w, hwalk, hacc⟩ :=
    rateWalk_acc (s := s) hc s.unconsumed (k := 0) (w := { acc := 0, cum := 0, visited := 0 }) rfl (Nat.zero_le _)
  exact ⟨w, hwalk, by rw [hacc, zero_add, List.range_eq_range']⟩

/-! What RATE answers. -/

/-- The value RATE answers at a clock value: the sum of R135, or 0 when the signal is stalled (R131). -/
def State.rateAt (s : State) (now : Timestamp) : Rat := if stalled s now then 0 else Expected.exactSum s

/-- With no edge recorded the sum is empty, so the first test of R131 answers the sum too. -/
theorem exactSum_of_no_edge (h : s.unconsumed = 0) : Expected.exactSum s = 0 := by
  simp [Expected.exactSum, h]

theorem exactRate_eq_rateAt (hc : 1 ≤ s.params.c) (now : Timestamp) : exactRate s now = .ok (s.rateAt now) := by
  unfold exactRate State.rateAt
  split
  case isTrue hnone => rw [exactSum_of_no_edge hnone, ite_self]
  case isFalse =>
    split
    case isTrue => rfl
    case isFalse =>
      obtain ⟨w, hwalk, hacc⟩ := fullWalk_acc hc
      rw [hwalk, exactSum_eq, ← hacc]

/-- The stall test on whole numbers (R131). -/
theorem stalled_iff {now : Timestamp} :
    stalled s now = true ↔ (s.params.win : Int) < ((now : Int) - s.timeOfLastTick) % 2 ^ s.params.tW := by
  rw [stalled, decide_eq_true_eq, ← natCast_elapsed, Nat.cast_lt]

theorem State.rateAt_of_not_stalled {now : Timestamp}
    (h : ((now : Int) - s.timeOfLastTick) % 2 ^ s.params.tW ≤ (s.params.win : Int)) :
    s.rateAt now = Expected.exactSum s :=
  if_neg (stalled_iff.not.mpr h.not_gt)

theorem State.rateAt_of_zero_cases {now : Timestamp}
    (h : s.unconsumed = 0 ∨ (s.params.win : Int) < ((now : Int) - s.timeOfLastTick) % 2 ^ s.params.tW) :
    s.rateAt now = 0 := by
  unfold State.rateAt
  rcases h with hnone | hstalled
  · rw [exactSum_of_no_edge hnone, ite_self]
  · exact if_pos (stalled_iff.mpr hstalled)

/-- The value depends on the clock by the stall alone (R138). -/
theorem State.rateAt_cases (s : State) (now : Timestamp) : s.rateAt now = 0 ∨ s.rateAt now = Expected.exactSum s :=
  ite_eq_or_eq ..

/-- RATE in a live state answers its value and the rendering, and leaves the rest (R130, R138). -/
theorem exec_rate_of_live (h : s.Live) (now : Nat) :
    exec (.rate now) s =
      .next (s.quiet.setRate { exact := s.rateAt (portTime s.params now),
                               word := rateEncode (s.rateAt (portTime s.params now)) }) := by
  obtain ⟨hc, -⟩ := s.params.ok_iff.mp h.inv.params
  have hvalue : exactRate s.quiet (portTime s.params now) = .ok (s.rateAt (portTime s.params now)) :=
    (exactRate_congr (s := s.quiet) (t := s) rfl rfl rfl rfl rfl _).trans (exactRate_eq_rateAt hc _)
  calc exec (.rate now) s
    _ = finish (rateBody now s.quiet) := operate_of_built h.inv.params h.built _
    _ = _ := by rw [rateBody, State.quiet_params, hvalue]; rfl

/-- RATE with a clock value that fits, by the value it answers. -/
theorem exec_rate_of_rateAt (h : s.Live) {now : Timestamp} (hnow : UFits s.params.tW now) {q : Rat}
    (hq : s.rateAt now = q) :
    exec (.rate now) s = .next { s with rdata := none, rate := some { exact := q, word := rateEncode q } } := by
  rw [exec_rate_of_live h, portTime_of_fits hnow, hq]
  rfl

/-- RATE does not read what the ports held before it (R36, R67). -/
theorem exec_rate_quiet_setRate (s : State) (r : RateResult) (now : Nat) :
    exec (.rate now) (s.quiet.setRate r) = exec (.rate now) s := rfl

/-! The rendering (R137). -/

theorem rateEncode_of_neg {q : Rat} (h : q < 0) : rateEncode q = .neg (Config.rateBits q) := if_pos h

@[simp] theorem rateEncode_zero : rateEncode 0 = .zero := rfl

theorem rateEncode_of_pos {q : Rat} (h : 0 < q) : rateEncode q = .pos (Config.rateBits q) := by
  rw [rateEncode, if_neg h.not_gt, if_neg h.ne']

/-- The rendering tells the sign and the zero of what it renders (R137, log entry 13). -/
theorem rateEncode_sign (q : Rat) :
    (q < 0 ↔ ∃ bits, rateEncode q = .neg bits) ∧ (q = 0 ↔ rateEncode q = .zero) ∧
    (0 < q ↔ ∃ bits, rateEncode q = .pos bits) := by
  rcases lt_trichotomy q 0 with hneg | rfl | hpos
  · simp [rateEncode_of_neg hneg, hneg, hneg.ne, hneg.le]
  · simp
  · simp [rateEncode_of_pos hpos, hpos, hpos.ne', hpos.le]

/-! Steady rotation (R141). -/

/-- When the `n` newest entries equal `T`, each of them has the steps of `T`. -/
theorem stepsBefore_of_steady {T : Interval} {n : Nat} (hsteady : ∀ k < n, Expected.entry s k = T) :
    s.stepsBefore n = n * (T.natAbs / s.params.q) := by
  have hsteps : ∀ k ∈ List.range n, Expected.steps s k = T.natAbs / s.params.q := fun k hk => by
    rw [Expected.steps, hsteady k (List.mem_range.mp hk)]
  rw [State.stepsBefore, List.map_congr_left hsteps]
  simp

/-- Every credited step carries `2 / T`: an entry that is not one of the `n` newest is credited none (R141). -/
theorem credit_of_steady {T : Interval} {n : Nat} (hsteady : ∀ k < n, Expected.entry s k = T)
    (hfull : s.params.n ≤ s.stepsBefore n) (k : Nat) :
    s.credit k = (Expected.creditedSteps s k : Rat) * (2 / (T : Rat)) := by
  rcases lt_or_ge k n with hk | hk
  · rw [State.credit, contribution, hsteady k hk, mul_div_assoc]
  · have hspent : s.params.n ≤ s.stepsBefore k := hfull.trans (s.stepsBefore_mono hk)
    rw [State.credit_of_spent hspent, creditedSteps_of_spent hspent, Nat.cast_zero, zero_mul]

/-- The credited steps add up to the whole budget, and each carries `2 / T` (R141). -/
theorem exactSum_of_steady (hp : s.params.ok = true) {T : Interval} {n : Nat} (hn : n ≤ s.unconsumed)
    (hsteady : ∀ k < n, Expected.entry s k = T) (hfull : s.params.n ≤ n * (T.natAbs / s.params.q)) :
    Expected.exactSum s = 2 / (T : Rat) := by
  rw [← stepsBefore_of_steady hsteady] at hfull
  have hbudget : ((List.range s.unconsumed).map (Expected.creditedSteps s)).sum = s.params.n := by
    rw [sum_creditedSteps]
    exact min_eq_left (hfull.trans (s.stepsBefore_mono hn))
  have hn0 : (s.params.n : Rat) ≠ 0 := by exact_mod_cast (Params.n_pos hp).ne'
  have hacc : ((List.range s.unconsumed).map s.credit).sum = (s.params.n : Rat) * (2 / (T : Rat)) := by
    rw [← hbudget, Nat.cast_list_sum, List.map_map, ← List.sum_map_mul_right]
    exact congrArg List.sum (List.map_congr_left fun k _ => credit_of_steady hsteady hfull k)
  rw [exactSum_eq, hacc, mul_div_cancel_left₀ _ hn0]

/-! The statements. -/

/-- Settles O26: RATE answers its value on the port alone, which it does not read when repeated. -/
theorem rateChangesNoStateAndRepeats : Obligations.RateChangesNoStateAndRepeats := by
  refine ⟨fun _ => decodePorts_of_op5, fun s now h => ?_⟩
  have hrate := exec_rate_of_live h now
  exact ⟨_, hrate, (exec_rate_quiet_setRate s _ now).trans hrate⟩

/-- Settles O27: both tests give the value 0, whose rendering is the format's zero. -/
theorem rateIsZeroWithoutEdgesOrWhenStalled : Obligations.RateIsZeroWithoutEdgesOrWhenStalled :=
  fun _ _ h hnow hzero => exec_rate_of_rateAt h hnow (State.rateAt_of_zero_cases hzero)

/-- Settles O28: the walk adds up the contributions, credited as far as the budget reaches (`rateWalk_acc`). -/
theorem rateIsTheWindowedWeightedSum : Obligations.RateIsTheWindowedWeightedSum :=
  fun _ _ h hnow _ hmoving => exec_rate_of_rateAt h hnow (State.rateAt_of_not_stalled hmoving)

/-- Settles O29, by the bound on the walk. -/
theorem rateIsAtMostTwoOverQ : Obligations.RateIsAtMostTwoOverQ := by
  intro s t now h
  obtain ⟨hp, -⟩ := operate_next (effect := rateBody now) h
  obtain ⟨q, hq, rfl⟩ := exec_rate_next h
  exact ⟨_, rfl, abs_exactRate_le hp hq⟩

/-- Settles O30, by the sum of R135 in steady rotation. -/
theorem steadyRotationGivesTwoOverT : Obligations.SteadyRotationGivesTwoOverT := by
  intro s now T n h hnow hmoving hn hsteady _ _ hfull
  refine exec_rate_of_rateAt h hnow ?_
  rw [State.rateAt_of_not_stalled hmoving, exactSum_of_steady h.inv.params hn hsteady hfull]

/-- Settles O32: what port `rate` carries is a value and its rendering. -/
theorem rateOutputKeepsTheSign : Obligations.RateOutputKeepsTheSign := by
  intro s t now r h hr
  obtain ⟨q, -, rfl⟩ := exec_rate_next h
  obtain rfl := Option.some.inj hr
  exact rateEncode_sign q

/-- Settles O33: at either clock value the answer is 0 or the sum, which does not depend on the clock. -/
theorem rateDiffersOnlyByTheStall : Obligations.RateDiffersOnlyByTheStall := by
  intro s t u n1 n2 r1 r2 h ht hu hr1 hr2
  obtain rfl := Host.Outcome.next.inj ((exec_rate_of_live h n1).symm.trans ht)
  obtain rfl := Host.Outcome.next.inj ((exec_rate_of_live h n2).symm.trans hu)
  obtain rfl := Option.some.inj hr1
  obtain rfl := Option.some.inj hr2
  rcases s.rateAt_cases (portTime s.params n1) with h1 | h1
  · exact .inr (.inl h1)
  · rcases s.rateAt_cases (portTime s.params n2) with h2 | h2
    · exact .inr (.inr h2)
    · exact .inl (by rw [h1, h2])

end Sys2Proof.Machine

/-! SUPPORT. The control operations (44_control_ops.md): what the block INIT constructs reads as (R150), and NOP
(R151). -/

namespace Sys2Proof.Machine

variable {s t : State}

/-! INIT. -/

/-- The mode is interrupts exactly when both notifications are bound (R23). -/
theorem pollOfBound_eq (bound : BitVec 2) : pollOfBound bound = !(bound.getLsbD 0 && bound.getLsbD 1) := by
  revert bound
  decide

/-- Every slot of the block INIT constructs reads as `SENTINEL` (R150). -/
theorem memRead_construct {i : Nat} (hi : i < s.params.c) (a b : Bool) (bound : BitVec 2) :
    memRead (construct s a b bound) i = .ok sentinel :=
  memRead_of_lt (s := construct s a b bound) hi

/-- The block INIT constructs takes from the state its parameters and the pending offers alone (R33). -/
theorem construct_congr (hparams : s.params = t.params) (henv : s.env = t.env) (a b : Bool) (bound : BitVec 2) :
    construct s a b bound = construct t a b bound := by
  rw [construct, construct, hparams, henv]

/-- Settles O36: INIT leaves what `construct` makes of the state, read element by element. -/
theorem initLeavesTheResetTable : Obligations.InitLeavesTheResetTable := by
  refine ⟨fun _ => decodePorts_of_op1, fun s a b bound hp => ⟨_, exec_init_of_ok hp a b bound, ?_⟩⟩
  exact ⟨rfl, rfl, pollOfBound_eq bound, rfl, rfl, rfl, rfl, rfl, fun _ hi => memRead_construct hi a b bound,
    rfl, rfl, rfl, rfl, rfl⟩

/-- Settles O37: the parameters decide whether INIT is refused, and what it constructs reads no element. -/
theorem initReadsNoState : Obligations.InitReadsNoState := by
  intro s t a b bound hparams henv
  simp only [exec_init, operateInit, hparams, construct_congr hparams henv]

/-! NOP. -/

/-- NOP completes in a live state and leaves it without a result (R151). -/
theorem exec_nop_of_live (h : s.Live) : exec .nop s = .next s.quiet :=
  operate_of_built h.inv.params h.built nopBody

/-- Settles O38: NOP in a live state, and its refusal before the first INIT. -/
theorem nopChangesNothing : Obligations.NopChangesNothing :=
  ⟨fun _ => decodePorts_of_op0, fun _ => exec_nop_of_live, fun _ hp hb => operate_of_not_built hp hb nopBody⟩

end Sys2Proof.Machine

/-! SUPPORT. Completion and the order of presentation (60_exceptions.md): every operation but the reserved two completes
in a live state (R160), no step faults, and an edge notification's UPDATE is followed by the host's operation (R164). -/

namespace Sys2Proof.Machine

variable {s t : State}

/-! Completion (R160). -/

/-- WRITE completes in a live state, also with a value too large for its port (R65, R111). -/
theorem exec_write_portPosition_of_live (h : s.Live) (x : Int) :
    exec (.write x) s = .next (s.quiet.setPos (portPosition s.params x)) :=
  operate_of_built h.inv.params h.built (writeBody x)

/-- In a live state every operation but the reserved two answers. -/
theorem State.Live.exec_completes (h : s.Live) {i : Instr} (hi : i.isReserved = false) : ∃ t, exec i s = .next t := by
  cases hcode : i.isCode with
  | true =>
    obtain ⟨code, now, hexec, -⟩ := exec_of_isCode hcode
    exact ⟨_, (hexec s).trans (operate_decodePass_of_live h code now)⟩
  | false =>
    cases i with
    | nop => exact ⟨_, exec_nop_of_live h⟩
    | init a b bound => exact ⟨_, exec_init_of_ok h.inv.params a b bound⟩
    | update a b now => exact ⟨_, exec_update_of_live h a b now⟩
    | read a b now =>
      obtain ⟨t, ht, -⟩ := exec_read_of_live h a b now
      exact ⟨t, ht⟩
    | write x => exact ⟨_, exec_write_portPosition_of_live h x⟩
    | rate now => exact ⟨_, exec_rate_of_live h now⟩
    | reserved6 | reserved7 => cases hi
    | _ => cases hcode

/-- Settles O43: the operation completes, and what it leaves is live. -/
theorem everyOperationCompletesInALiveState : Obligations.EveryOperationCompletesInALiveState := by
  intro s i h hi
  obtain ⟨t, ht⟩ := h.exec_completes hi
  exact ⟨t, ht, h.exec_next ht⟩

/-- Under the invariant no operation faults: constructed, it completes or is a reserved opcode; before the first INIT,
it is refused or is INIT. -/
theorem State.Inv.exec_ne_fault (h : s.Inv) (i : Instr) (f : Fault) : exec i s ≠ .fault f := by
  rcases exec_cases i with ⟨-, hres, effect, hexec⟩ | ⟨a, b, bound, rfl⟩ | ⟨-, -, op, hexec⟩
  · cases hb : s.built with
    | true =>
      obtain ⟨t, ht⟩ := State.Live.exec_completes ⟨hb, h⟩ hres
      simp [ht]
    | false => simp [hexec, operate_of_not_built h.params hb]
  · simp [exec_init_of_ok h.params]
  · simp [hexec]

/-- Settles O44: a step is an operation on the state whose offers have moved on. -/
theorem noStepFaults : Obligations.NoStepFaults :=
  fun _ h => (h.setEnv _).exec_ne_fault _

/-! Two steps (R164). -/

/-- A decode pass that answers does so whatever is ready, and leaves it ready (R36). -/
theorem decodePass_setEnv {code : BitVec 4} {now : Nat} (h : decodePass code now s = .ok t) (env : List Offer) :
    decodePass code now (s.setEnv env) = .ok (t.setEnv env) := by
  rcases edgeClass_cases code with hclass | hclass
  · rw [decodePass_of_no_record hclass] at h ⊢
    rw [← Except.ok.inj h]
    rfl
  · have hc := cursor_lt_of_decodePass hclass h
    rcases hclass with hclass | hclass
    · rw [decodePass_of_ch1 hclass hc] at h
      rw [decodePass_of_ch1 (s := s.setEnv env) hclass hc, ← Except.ok.inj h]
      rfl
    · rw [decodePass_of_ch2 hclass hc] at h
      rw [decodePass_of_ch2 (s := s.setEnv env) hclass hc, ← Except.ok.inj h]
      rfl

/-- An UPDATE that answers does so whatever is ready, and leaves it ready (R36). -/
theorem exec_update_setEnv {a b : Bool} {now : Nat} (h : exec (.update a b now) s = .next t) (env : List Offer) :
    exec (.update a b now) (s.setEnv env) = .next (t.setEnv env) := by
  obtain ⟨hp, hb, hpass⟩ := operate_next (exec_update a b now s ▸ h)
  calc exec (.update a b now) (s.setEnv env)
    _ = finish (decodePass (codeOf s.hist a b) now (s.quiet.setEnv env)) :=
      operate_of_built (s := s.setEnv env) hp hb _
    _ = .next (t.setEnv env) := by rw [decodePass_setEnv hpass, finish]

/-- When the first step answers, a run of two steps ends as the second step does. -/
theorem run_two_of_next (h : step s = .next t) : Sys2Proof.core.run 2 s = step t := by
  have hfirst : Sys2Proof.core.step s = .next t := h
  have hsecond : Sys2Proof.core.step t = step t := rfl
  simp only [Host.Core.run, hfirst, hsecond]
  cases step t <;> rfl

/-- Settles O54: the first step leaves what UPDATE leaves with the host's operation still ready, and the second performs
that operation. -/
theorem edgeThenHostInTwoSteps : Obligations.EdgeThenHostInTwoSteps := by
  intro s t e io rest hready hupdate
  have hfirst : step s = .next (t.setEnv ({ edge := none, host := some io } :: rest)) :=
    (step_of_edge_and_host hready).trans (exec_update_setEnv hupdate _)
  have hleft : t.env = rest := by
    obtain ⟨-, henv, -⟩ := onlyInitWritesPoll _ _ _ hupdate
    exact henv
  have hsecond : step (t.setEnv ({ edge := none, host := some io } :: rest)) = exec (decodePorts io) t := by
    rw [step_of_host rfl, ← hleft]
    rfl
  exact (run_two_of_next hfirst).trans hsecond

end Sys2Proof.Machine

/-! SUPPORT. Reset and hazards (70_reset_and_hazards.md): passes over pairs that are not neighbours (R186, R187), a
clock value just before the last tick (R188), and what WRITE, INIT and short intervals do to the rate (R193, R195). -/

namespace Sys2Proof

/-! Pairs that are not neighbours (R186, R187). -/

/-- With both channels inverted the code is a double step, whose sign the old pair alone fixes (R101). -/
theorem codeOf_double_step (a b : Bool) :
    edgeClass (codeOf (pairOf a b) (!a) (!b)) = .dbl ∧
    delta (codeOf (pairOf a b) (!a) (!b)) = if a = b then 2 else -2 := by
  revert a b; decide

/-- The pair before (a,b) in the counting-up order is one step down from it (R101). -/
theorem delta_codeOf_backward (a b : Bool) : delta (codeOf (pairOf a b) (!b) a) = -1 := by
  revert a b; decide

namespace Expected

theorem forwardBy_eq_iterate (m : Nat) (e : Bool × Bool) : forwardBy m e = forward^[m] e := by
  induction m generalizing e with
  | zero => rfl
  | succ m ih => exact ih (forward e)

/-- Four single steps come round to the pair they start from (R101). -/
theorem forward_isPeriodicPt (e : Bool × Bool) : Function.IsPeriodicPt forward 4 e := by
  revert e; decide

theorem forwardBy_mod_four (m : Nat) (e : Bool × Bool) : forwardBy (m % 4) e = forwardBy m e := by
  rw [forwardBy_eq_iterate, forwardBy_eq_iterate, (forward_isPeriodicPt e).iterate_mod_apply]

/-- The pair reached by `m` single steps, by `m` modulo 4 (R186). -/
theorem forwardBy_cases (m : Nat) (a b : Bool) :
    (m % 4 = 0 ∧ forwardBy m (a, b) = (a, b)) ∨ (m % 4 = 1 ∧ forwardBy m (a, b) = (b, !a)) ∨
    (m % 4 = 2 ∧ forwardBy m (a, b) = (!a, !b)) ∨ (m % 4 = 3 ∧ forwardBy m (a, b) = (!b, a)) := by
  have hrest : m % 4 = 0 ∨ m % 4 = 1 ∨ m % 4 = 2 ∨ m % 4 = 3 := by omega
  rw [← forwardBy_mod_four m]
  rcases hrest with h | h | h | h <;> simp [h, forwardBy, forward]

end Expected

/-! The clock (R188). -/

/-- The elapsed time from the clock value after `x` back to `x` is the greatest there is (R121). -/
theorem sub_succ_emod (w x : Nat) : ((x : Int) - ((x + 1) % 2 ^ w : Nat)) % 2 ^ w = 2 ^ w - 1 := by
  have hpos := two_pow_pos w
  calc ((x : Int) - ((x + 1) % 2 ^ w : Nat)) % 2 ^ w
    _ = ((x : Int) - (x + 1)) % 2 ^ w := by push_cast; exact Int.sub_emod_emod ..
    _ = (2 ^ w - 1) % 2 ^ w := by rw [← Int.add_emod_right]; ring_nf
    _ = 2 ^ w - 1 := Int.emod_eq_of_lt (by omega) (by omega)

namespace Machine

variable {s : State}

/-- A pass with both channels inverted moves by two and records nothing (R101). -/
theorem exec_update_double_step (h : s.Live) {a b : Bool} (hpair : pairOf a b = s.hist) (now : Nat) :
    exec (.update (!a) (!b) now) s =
      .next (Expected.noRecord s (if a = b then 2 else -2) (pairOf (!a) (!b))) := by
  obtain ⟨hclass, hdelta⟩ := codeOf_double_step a b
  rw [exec_update_of_live h, ← hpair, Expected.pass_of_no_record (.inr hclass), hdelta, newHistory_codeOf]

/-- Settles O14: the old pairs of the two double steps agree or differ alike, so both have the same sign. -/
theorem doubleStepAndBackMovesByFour : Obligations.DoubleStepAndBackMovesByFour := by
  intro s a b n1 n2 h hpair
  have hthere := exec_update_double_step h hpair n1
  have hback := exec_update_double_step (h.exec_next hthere) (a := !a) (b := !b) rfl n2
  rw [Bool.not_not, Bool.not_not] at hback
  refine ⟨_, (runOps_cons_of_next hthere _).trans (runOps_cons_of_next hback _), ?_, rfl, rfl⟩
  simp only [Expected.noRecord, wrapS_add_wrapS, Bool.not_inj_iff]
  split <;> rw [add_assoc] <;> rfl

/-- Settles O15: the pass sees the pair reached, and the four pairs have the deltas of the statement. -/
theorem unseenStepsAliasModuloFour : Obligations.UnseenStepsAliasModuloFour := by
  intro s a b m now h hpair e
  refine ⟨_, exec_update_of_live h e.1 e.2 now, ?_⟩
  rw [Expected.pass_pos, ← hpair]
  rcases Expected.forwardBy_cases m a b with ⟨hm, he⟩ | ⟨hm, he⟩ | ⟨hm, he⟩ | ⟨hm, he⟩
  · simp only [e, he, hm, delta_of_none (edgeClass_codeOf_pairOf a b)]
  · simp only [e, he, hm, delta_codeOf_forward]
  · simp only [e, he, hm, (codeOf_double_step a b).2]
  · simp only [e, he, hm, delta_codeOf_backward]

/-! The rate. -/

/-- Entries without a whole step are passed over, so a buffer of no others sums to 0 (R134). -/
theorem exactSum_of_no_steps (h : ∀ k < s.unconsumed, Expected.steps s k = 0) : Expected.exactSum s = 0 := by
  have hcredit : ∀ x ∈ (List.range s.unconsumed).map s.credit, x = 0 := by
    intro x hx
    obtain ⟨k, hk, rfl⟩ := List.mem_map.mp hx
    have hnone : Expected.creditedSteps s k = 0 := by
      rw [creditedSteps_eq, h k (List.mem_range.mp hk), Nat.zero_min]
    simp [State.credit, contribution, hnone]
  rw [exactSum_eq, List.sum_eq_zero hcredit, zero_div]

/-- Settles O31: an interval below `Q` has no whole step, so the value is 0, stalled or not. -/
theorem intervalsShorterThanQAreInvisible : Obligations.IntervalsShorterThanQAreInvisible := by
  intro s now h hshort
  have hsum : Expected.exactSum s = 0 := exactSum_of_no_steps fun k hk => Nat.div_eq_of_lt (hshort k hk)
  have hzero : s.rateAt (portTime s.params now) = 0 := (s.rateAt_cases _).elim id (·.trans hsum)
  rw [exec_rate_of_live h, hzero]
  rfl

/-- Settles O34: the elapsed time is `2^T_W - 1`, so the signal counts as stalled. -/
theorem rateOneUnitBeforeTheTickIsZero : Obligations.RateOneUnitBeforeTheTickIsZero := by
  intro s now h hnow htick hwin
  have hstalled : (s.params.win : Int) < ((now : Int) - s.timeOfLastTick) % 2 ^ s.params.tW := by
    rw [htick, sub_succ_emod, ← natCast_two_pow]
    omega
  exact exec_rate_of_rateAt h hnow (State.rateAt_of_zero_cases (.inr hstalled))

/-- The value RATE answers does not depend on the position or the ports (R36). -/
@[simp] theorem State.rateAt_quiet_setPos (s : State) (z : Position) (now : Timestamp) :
    (s.quiet.setPos z).rateAt now = s.rateAt now := rfl

/-- The block INIT constructs holds no edge, so RATE answers 0 (R131, R150). -/
@[simp] theorem rateAt_construct (s : State) (a b : Bool) (bound : BitVec 2) (now : Timestamp) :
    (construct s a b bound).rateAt now = 0 :=
  State.rateAt_of_zero_cases (.inl rfl)

/-- Settles O35: WRITE and INIT leave live states, in which RATE answers the value of before and 0. -/
theorem writeKeepsTheRateAndInitErasesIt : Obligations.WriteKeepsTheRateAndInitErasesIt := by
  intro s x now a b bound h
  constructor
  · have hwrite := exec_write_portPosition_of_live h x
    have hrate := exec_rate_of_live (h.exec_next hwrite) now
    exact ⟨_, _, exec_rate_of_live h now,
      (runOps_cons_of_next hwrite _).trans (runOps_cons_of_next hrate _), by simp⟩
  · have hinit := exec_init_of_ok h.inv.params a b bound
    have hrate := exec_rate_of_live (construct_live h.inv.params a b bound) now
    exact ⟨_, (runOps_cons_of_next hinit _).trans (runOps_cons_of_next hrate _), by simp⟩

end Machine

end Sys2Proof
